-- ==== Sys2Proof/Word.lean ====
section
/-!
DEFINITION. The two word types of PNG-SE: registers and command words of 32 bits (00_scope.md R8, 30_encoding.md R80)
and buffer bytes (20_memory.md R60).
-/

namespace Sys2Proof

/-- A u32: a register's contents or a command word. -/
abbrev Word := BitVec 32

/-- A u8: one byte of buffer memory. -/
abbrev Byte := BitVec 8

/-- The largest u32, the bound of rules R9 and R241. -/
def u32Max : Nat := 4294967295

end Sys2Proof
end

