-- ==== Sys2Proof/Config.lean ====
section
/-!
DEFINITION. What the spec leaves open: the two parameters of 92_eei_decisions.md and the free values a model draws
("any value", 93_implementation_defined.md). None has a body, so no proof can see what any of them is.
-/

namespace Sys2Proof.Config

/-- MEM_SIZE − 1 of the machine that `State.reset` describes: every MEM_SIZE from 1 to 2^32 is one value of it
(00_scope.md R8). OPEN parameter, log 1. -/
opaque memSizeLessOne : Word

/-- MEM_SIZE of the machine that `State.reset` describes. -/
def memSize : Nat := memSizeLessOne.toNat + 1

/-- The byte that address `a` holds after power-on number `epoch`, until something writes it
(70_reset_and_hazards.md R270: any value). Log 2. -/
opaque powerOnByte : (epoch a : Nat) → Byte

/-- Free value number `k` of 32 bits: what an unspecified register read returns (R45), what a raced register holds
(R73). Log 6. -/
opaque freeWord : (k : Nat) → Word

/-- Free value number `k` of 8 bits: what an unspecified buffer byte holds (R73, R271). Log 6. -/
opaque freeByte : (k : Nat) → Byte

/-- The u32 value of `hi − lo` where `lo` is above `hi`: a stream offset or length that is negative in ℤ, which only a
race (20_memory.md R73) can bring about, and for which the spec gives no register value. Log 21. -/
opaque negativeOffset : (hi lo : Word) → Word

/-- REG_BASE, where the platform puts the register space (20_memory.md R71). PNG-SE cannot see it, and no rule
uses it: a register access is given here by its offset. OPEN parameter, log 17. -/
opaque regBase : Nat

end Sys2Proof.Config
end

