-- ==== Sys2Proof/Syntax.lean ====
section
/-!
DEFINITION. The instructions of PNG-SE's two layers (00_scope.md R2): the 21 commands of the command word
(30_encoding.md R81) and the five filter-type bytes, the document's per-scanline opcode (30_encoding.md R92). One
constructor per row of spec/opcode_table.json.
-/

namespace Sys2Proof

/-- The five filter types (30_encoding.md R92). -/
inductive FilterType where
  | none
  | sub
  | up
  | average
  | paeth
  deriving DecidableEq, Repr

/-- An instruction. `ft` is the raw FT field (R83), `zp`, `ci` and `cf` the flags of R80. -/
inductive Instr where
  | nop
  | unfilterRow (zp : Bool)
  | filterRow (ft : BitVec 3) (zp : Bool)
  | unfilterImage
  | filterImage (ft : BitVec 3)
  | geom
  | imglen
  | unpackRow
  | packRow
  | a7Dims
  | a7Map
  | a7Inv
  | crcUpdate (ci cf : Bool)
  | frStart
  | frNext
  | frFinish
  | emStart
  | emChunk
  | emIhdr
  | emIdat
  | emIend
  | filterTypeNone
  | filterTypeSub
  | filterTypeUp
  | filterTypeAverage
  | filterTypePaeth
  deriving DecidableEq, Repr

/-- The two forms an encoded instruction has: a command word (R80) or a filter-type byte (R92). -/
inductive Encoded where
  | command (w : Word)
  | filterByte (b : Byte)
  deriving DecidableEq, Repr

end Sys2Proof
end

