-- ==== Sys2Proof/Machine/State.lean ====
section
/-!
DEFINITION. Everything the spec gives PNG-SE, as plain data (10_state.md, 20_memory.md), with the model's own fields
(the schedule, the host's last read, the free-value counters) marked as such, the reasons a step can stop, and the
state after reset (70_reset_and_hazards.md R270).
-/

namespace Sys2Proof.Machine

/-- Why the machine stops. No command stops it: an error is a completion (60_exceptions.md R244). -/
inductive Fault where
  /-- The host reads or writes a buffer address at or above MEM_SIZE, which does not exist (20_memory.md R60).
  Raised by `State.hostMemWrite` and `State.hostMemRead`. Safe (log 12). -/
  | noSuchByte
  /-- A filter-type byte is executed and no scanline is in progress (10_state.md R47). Raised by the five filter-type
  meanings. Safe (log 8). -/
  | noScanline
  deriving DecidableEq, Repr

/-- Why a step has no meaning. -/
inductive Refusal where
  /-- No meaning yet for the instruction with this mnemonic; raised by `exec` only. Safe. -/
  | notModelled (mnemonic : String)
  /-- The host accesses the register space with another width or alignment than an aligned 32-bit access: "the access
  is refused" (20_memory.md R69). Raised by `State.hostRegWrite` and `State.hostRegRead`. Safe. -/
  | registerAccessShape
  deriving DecidableEq, Repr

/-- The error codes of 60_exceptions.md R240. -/
inductive ErrCode where
  | signature | truncated | length | crc | ihdrNotFirst | dupIhdr | dupPlte | idatNoncontig
  | afterIend | missingIdat | missingIend | ihdrLength | ihdrField | iendLength | plteLength | filterType
  | dataLength | header | sampleRange | capacity
  | illegalCmd | sequence | argRange | bounds | overlap | overflow
  deriving DecidableEq, Repr

/-- IDAT_STATE (10_state.md R36): NONE, OPEN, CLOSED; "3 never occurs". -/
inductive IdatState where
  | noIdat
  | isOpen
  | closed
  deriving DecidableEq, Repr

/-- The ordering fields that FR_STATE and EM_STATE share (10_state.md R36, R40; 41_chunk_framer.md R133). -/
structure ChunkOrder where
  ihdrSeen : Bool
  plteSeen : Bool
  idat : IdatState
  iendSeen : Bool
  deriving DecidableEq, Repr

/-- FR_STATE (10_state.md R36). -/
structure FrState where
  sigOk : Bool
  order : ChunkOrder
  fail : Bool
  done : Bool
  deriving DecidableEq, Repr

/-- EM_STATE (10_state.md R40). -/
structure EmState where
  started : Bool
  order : ChunkOrder
  deriving DecidableEq, Repr

/-- The image header registers (10_state.md R32-R35). `il` is HDR_IL[7:0]; HDR_IL[31:8] reads 0. -/
structure Header where
  width : Word
  height : Word
  fmt : Word
  il : Byte
  deriving DecidableEq, Repr

/-- The registers a command reads as operands, the ones R46 latches: ARG0-ARG3, IDAT_MAX, HDR_*, CRC, FR_*, EM_*
(10_state.md R25, R30-R43). -/
structure OperandRegs where
  arg0 : Word
  arg1 : Word
  arg2 : Word
  arg3 : Word
  idatMax : Word
  hdr : Header
  crc : Word
  fr : FrState
  frBase : Word
  frCursor : Word
  frLimit : Word
  em : EmState
  emBase : Word
  emCursor : Word
  emLimit : Word
  deriving DecidableEq, Repr

/-- STATUS without BUSY (10_state.md R23); BUSY is shown by the phase (R46). -/
structure Status where
  done : Bool
  err : Bool
  lost : Bool
  errCode : Byte
  deriving DecidableEq, Repr

/-- The latched command: the word and the operand registers as they stood at acceptance (10_state.md R46). -/
structure Latched where
  word : Word
  regs : OperandRegs
  deriving DecidableEq, Repr

/-- The engine's phase (10_state.md R46). -/
inductive Phase where
  | idle
  | busy (l : Latched)
  deriving DecidableEq, Repr

/-- Which image command walks the scanlines; `filter` carries its FT field (43_filter_engine.md R208, R209). -/
inductive WalkKind where
  | unfilter
  | filter (ft : BitVec 3)
  deriving DecidableEq, Repr

/-- The row context of an image command (10_state.md R47): the previous row and where the walk stands. `src` and `dst`
are the buffer addresses of the next scanline's source and destination, `rb` the row bytes of the current pass, `left`
the scanlines still to do in it, `rest` the row bytes and heights of the contributing passes after it. -/
structure RowWalk where
  kind : WalkKind
  bpp : Nat
  src : Nat
  dst : Nat
  rb : Nat
  left : Nat
  prior : List Byte
  rest : List (Nat × Nat)
  deriving DecidableEq, Repr

/-- The width of a host access to the register space (20_memory.md R69). -/
inductive AccessWidth where
  | byte
  | half
  | word
  deriving DecidableEq, Repr

/-- What the host can do to the block (10_state.md R20, R49; 20_memory.md R61; 70_reset_and_hazards.md R270). -/
inductive HostOp where
  /-- Write `value` to the register space. -/
  | regWrite (offset : BitVec 8) (width : AccessWidth) (value : Word)
  /-- Read the register space. -/
  | regRead (offset : BitVec 8) (width : AccessWidth)
  /-- Write one buffer byte. -/
  | memWrite (addr : Word) (value : Byte)
  /-- Read one buffer byte. -/
  | memRead (addr : Word)
  /-- Sample the interrupt line (60_exceptions.md R250). -/
  | irqSample
  /-- Power is removed and comes back (60_exceptions.md R257; 70_reset_and_hazards.md R270). -/
  | powerOn
  deriving DecidableEq, Repr

/-- Who moves next: the host, the engine (the running command completes; while a scanline walk is in progress, its
next scanline), or the engine by scanlines (an image command begins its walk). Log 3, log 7. -/
inductive Event where
  | host (op : HostOp)
  | engine
  | engineRow
  deriving DecidableEq, Repr

/-- The buffer memory: the bytes that have been written since power-on, by rising address. -/
abbrev Memory := List Host.Cell

/-- The machine. -/
structure State where
  /-- CMD (R22). -/
  cmd : Word
  /-- STATUS (R23). -/
  status : Status
  /-- CTRL.IRQ_EN (R24). -/
  irqEn : Bool
  /-- ARG0-ARG3, IDAT_MAX, HDR_*, CRC, FR_*, EM_* (R25, R30-R43). -/
  regs : OperandRegs
  /-- RES0-RES3 (R27). -/
  res0 : Word
  res1 : Word
  res2 : Word
  res3 : Word
  /-- ERR_OFFSET (R28). -/
  errOffset : Word
  /-- ERR_CHUNK (R29). -/
  errChunk : Word
  /-- The engine phase and the latched command (R46). -/
  phase : Phase
  /-- The row context (R47). -/
  row : Option RowWalk
  /-- The buffer memory (R60). -/
  mem : Memory
  /-- The instance's MEM_SIZE (R8, R51): a parameter that no step changes. Log 1. -/
  memSize : Nat
  /-- The model's own: the host has raced with the running command (R73). Log 10. -/
  raced : Bool
  /-- The model's own: how many times power has come back (R270). Log 2. -/
  epoch : Nat
  /-- The model's own: what moves next, first event first; when empty, the engine moves. Log 3. -/
  agenda : List Event
  /-- The model's own: what the host's last read returned. Log 5. -/
  hostData : Word
  /-- The model's own: the number of the next free value. Log 6. -/
  free : Nat
  deriving DecidableEq, Repr

/-- No chunk seen (R36, R40). -/
def ChunkOrder.reset : ChunkOrder := ⟨false, false, .noIdat, false⟩

/-- The operand registers after reset (R50): CRC 0xFFFFFFFF, IDAT_MAX 0x00002000, the others 0. -/
def OperandRegs.reset : OperandRegs where
  arg0 := 0
  arg1 := 0
  arg2 := 0
  arg3 := 0
  idatMax := 0x00002000
  hdr := ⟨0, 0, 0, 0⟩
  crc := 0xFFFFFFFF
  fr := ⟨false, .reset, false, false⟩
  frBase := 0
  frCursor := 0
  frLimit := 0
  em := ⟨false, .reset⟩
  emBase := 0
  emCursor := 0
  emLimit := 0

/-- STATUS after reset (R23). -/
def Status.reset : Status := ⟨false, false, false, 0⟩

/-- The machine right after power-on (70_reset_and_hazards.md R270). -/
def State.reset : State where
  cmd := 0
  status := .reset
  irqEn := false
  regs := .reset
  res0 := 0
  res1 := 0
  res2 := 0
  res3 := 0
  errOffset := 0
  errChunk := 0
  phase := .idle
  row := none
  mem := []
  memSize := Config.memSize
  raced := false
  epoch := 0
  agenda := []
  hostData := 0
  free := 0

end Sys2Proof.Machine
end

