-- ==== Sys2Proof/Machine/Ops.lean ====
section
/-!
DEFINITION. The operations every command is made of: byte sequences and byte order (00_scope.md R12-R15), the buffer
memory (20_memory.md), the checks and their order (40_command_issue.md R112), acceptance and the two completions
(R110, R114, 60_exceptions.md R244), soft reset and power-on (70_reset_and_hazards.md R270, R271).
-/

namespace Sys2Proof.Machine

/-! ### Byte sequences (R12, R14, R15) -/

/-- BE(bytes): big-endian, the first byte most significant (R12). -/
def beValue (bs : List Byte) : Nat := bs.foldl (fun acc b => acc * 256 + b.toNat) 0

/-- bytesBE_4(v) (R12). -/
def bytesBE4 (v : Word) : List Byte :=
  [v.extractLsb' 24 8, v.extractLsb' 16 8, v.extractLsb' 8 8, v.extractLsb' 0 8]

/-- A natural number as a u32 register value. -/
def u32 (v : Nat) : Word := BitVec.ofNat 32 v

/-- pack(t): a chunk type in a register, byte 0 in bits [31:24] (20_memory.md R67). -/
def packType (t : List Byte) : Word := u32 (beValue t)

/-- `hi − lo`, a stream offset or length, as a register value. Below zero, after a race, it is a free value (log 21). -/
def offsetFrom (hi lo : Word) : Word := if lo.toNat ≤ hi.toNat then hi - lo else Config.negativeOffset hi lo

/-- zeros(n) (R14). -/
def zeros (n : Nat) : List Byte := List.replicate n 0

/-- s[i], 0 past the end. -/
def byteAt (s : List Byte) (i : Nat) : Byte := s.getD i 0

/-- ceil(x / n) (R9). -/
def ceilDiv (x n : Nat) : Nat := (x + n - 1) / n

/-! ### The buffer memory (20_memory.md) -/

/-- The byte written at `a`, none if no byte has been written there since power-on. -/
def Memory.lookup (m : Memory) (a : Nat) : Option Byte :=
  match m with
  | [] => none
  | (x, b) :: m => if x = a then some b else Memory.lookup m a

/-- Writing one byte keeps the addresses rising. -/
def Memory.write (m : Memory) (a : Nat) (b : Byte) : Memory :=
  match m with
  | [] => [(a, b)]
  | (x, c) :: m =>
    if a < x then (a, b) :: (x, c) :: m
    else if a = x then (a, b) :: m
    else (x, c) :: Memory.write m a b

/-- Writing a byte sequence from address `a` up. -/
def Memory.writeBytes (m : Memory) (a : Nat) (bs : List Byte) : Memory :=
  match bs with
  | [] => m
  | b :: bs => Memory.writeBytes (Memory.write m a b) (a + 1) bs

/-- The canonical form: addresses strictly rising. An unlisted address has no written byte, so no entry can equal
what an unlisted address holds (log 2). -/
abbrev Memory.wf (m : Memory) : Prop := m.Pairwise (fun x y => x.1 < y.1)

/-- MemRead1 (R12). A byte nothing has written holds the free value it had at power-on (R270, log 2). -/
def State.readByte (s : State) (a : Nat) : Byte :=
  match Memory.lookup s.mem a with
  | some b => b
  | none => Config.powerOnByte s.epoch a

/-- MemRead (R12). -/
def State.memRead (s : State) (a n : Nat) : List Byte := (List.range n).map (fun k => s.readByte (a + k))

/-- MemWrite (R12). -/
def State.memWrite (s : State) (a : Nat) (bs : List Byte) : State :=
  { s with mem := Memory.writeBytes s.mem a bs }

/-- A byte range [start, len) of buffer memory (20_memory.md R64). -/
structure Range where
  start : Nat
  len : Nat
  deriving DecidableEq, Repr

/-- InBounds (20_memory.md R63), in exact integers. -/
def Range.inBounds (r : Range) (size : Nat) : Bool := r.len == 0 || decide (r.start + r.len ≤ size)

/-- Overlap of two ranges (20_memory.md R65). -/
def Range.overlaps (p q : Range) : Bool :=
  decide (0 < p.len) && decide (0 < q.len) && decide (p.start < q.start + q.len) && decide (q.start < p.start + p.len)

/-- The address lies in the range. -/
def Range.contains (r : Range) (a : Nat) : Bool := decide (r.start ≤ a) && decide (a < r.start + r.len)

/-! ### Checks (40_command_issue.md R112) -/

/-- `raise E_NAME(off, chunk)` (00_scope.md R13). -/
structure Raise where
  code : ErrCode
  off : Word
  chunk : Word
  deriving DecidableEq, Repr

/-- `raise E_NAME(0, 0)`: an omitted argument is 0 (R13). -/
def raise (c : ErrCode) : Raise := ⟨c, 0, 0⟩

/-- One check of R112: it holds, or the command raises. -/
structure Check where
  holds : Bool
  orRaise : Raise
  deriving DecidableEq, Repr

/-- The first check that fails (R112: "It raises the first one that fails and stops"). -/
def firstFailure (cs : List Check) : Option Raise :=
  match cs with
  | [] => none
  | c :: cs => if c.holds then firstFailure cs else some c.orRaise

/-- Step 7: every range in bounds, in order (20_memory.md R63). -/
def boundsChecks (size : Nat) (rs : List Range) (r : Raise) : List Check :=
  rs.map (fun x => ⟨x.inBounds size, r⟩)

/-- Step 8: no write range overlaps a read range, pair by pair (20_memory.md R65). -/
def overlapChecks (reads writes : List Range) (r : Raise) : List Check :=
  writes.flatMap (fun w => reads.map (fun x => ⟨!x.overlaps w, r⟩))

/-! ### Acceptance, latching, completion -/

/-- The values a command executes on: the ones latched at acceptance (R111). Before any acceptance these are the live
registers, which is what acceptance would latch (log 15). -/
def State.operands (s : State) : OperandRegs :=
  match s.phase with
  | .busy l => l.regs
  | .idle => s.regs

/-- Acceptance of the command word `w` (40_command_issue.md R110, 10_state.md R46). -/
def State.accept (s : State) (w : Word) : State :=
  { s with
    cmd := w
    status := { s.status with done := false, err := false, errCode := 0 }
    res0 := 0
    res1 := 0
    res2 := 0
    res3 := 0
    errOffset := 0
    errChunk := 0
    phase := .busy ⟨w, s.regs⟩
    row := none
    raced := false }

/-- The code of an error (60_exceptions.md R240). -/
def ErrCode.code (e : ErrCode) : Byte :=
  match e with
  | .signature => 0x10
  | .truncated => 0x11
  | .length => 0x12
  | .crc => 0x13
  | .ihdrNotFirst => 0x14
  | .dupIhdr => 0x15
  | .dupPlte => 0x16
  | .idatNoncontig => 0x17
  | .afterIend => 0x18
  | .missingIdat => 0x19
  | .missingIend => 0x1A
  | .ihdrLength => 0x1B
  | .ihdrField => 0x1C
  | .iendLength => 0x1D
  | .plteLength => 0x1E
  | .filterType => 0x1F
  | .dataLength => 0x20
  | .header => 0x30
  | .sampleRange => 0x31
  | .capacity => 0x32
  | .illegalCmd => 0x40
  | .sequence => 0x41
  | .argRange => 0x42
  | .bounds => 0x43
  | .overlap => 0x44
  | .overflow => 0x45

/-- The phase becomes IDLE: no latched command, no row context (R46, R47). -/
def State.toIdle (s : State) : State := { s with phase := .idle, row := none, raced := false }

/-- RES0-RES3. -/
def State.withResults (s : State) (a b c d : Word) : State := { s with res0 := a, res1 := b, res2 := c, res3 := d }

/-- Completion with success (40_command_issue.md R114). -/
def State.succeed (s : State) : State := { s.toIdle with status := { s.status with done := true } }

/-- Error entry (60_exceptions.md R244): the one shared operation that takes an error. -/
def State.failWith (s : State) (r : Raise) : State :=
  { s.toIdle with
    status := { s.status with err := true, errCode := r.code.code }
    errOffset := r.off
    errChunk := r.chunk }

/-- Error entry of FR_START, FR_NEXT and FR_FINISH: it sets FR_STATE.FAIL too (R244, 41_chunk_framer.md R146). -/
def State.failFramer (s : State) (r : Raise) : State :=
  let t := s.failWith r
  { t with regs := { t.regs with fr := { t.regs.fr with fail := true } } }

/-- A command: the first failing check raises, and otherwise the command has its whole effect (R112, R113). -/
def conclude (checks : List Check) (failed : Raise → State) (passed : Host.Outcome State Fault Refusal) :
    Host.Outcome State Fault Refusal :=
  match firstFailure checks with
  | some r => .next (failed r)
  | none => passed

/-! ### Free values (R45, R73, R271; log 6) -/

/-- `n` free bytes from number `k` on. -/
def freeBytes (k n : Nat) : List Byte := (List.range n).map (fun i => Config.freeByte (k + i))

/-- The part of a range that exists. -/
def Range.clip (r : Range) (size : Nat) : Range := ⟨r.start, min r.len (size - r.start)⟩

/-- Every byte of the range takes any value. -/
def State.scramble (s : State) (r : Range) : State :=
  let c := r.clip s.memSize
  { s.memWrite c.start (freeBytes s.free c.len) with free := s.free + c.len }

/-- Every byte of every range takes any value. -/
def State.scrambleAll (s : State) (rs : List Range) : State := rs.foldl State.scramble s

/-! ### Reset (70_reset_and_hazards.md) -/

/-- Every register at its reset value, phase IDLE, no row context (R270, R50). The buffer memory is left alone. -/
def State.resetRegisters (s : State) : State :=
  { s.toIdle with
    cmd := 0
    status := .reset
    irqEn := false
    regs := .reset
    res0 := 0
    res1 := 0
    res2 := 0
    res3 := 0
    errOffset := 0
    errChunk := 0 }

/-- Power-on (R270): the registers reset, and every buffer byte unspecified anew. -/
def State.powerOn (s : State) : State := { s.resetRegisters with mem := [], epoch := s.epoch + 1 }

end Sys2Proof.Machine
end

