-- ==== Sys2Proof/Machine/Operands.lean ====
section
/-!
DEFINITION. Every operand a command computes with: the header fields and their legality (30_encoding.md R93-R98), row
geometry (42_bit_unpacker.md R170-R175), the Adam7 pass table (44_adam7.md R220, R221), image sizes (R178), chunk
types (R67, R99) and the read set and write set of each command (20_memory.md R64).
-/

namespace Sys2Proof.Machine

/-! ### Header fields (10_state.md R34, R35) -/

def Header.bitDepth (h : Header) : Nat := (h.fmt.extractLsb' 0 8).toNat
def Header.colorType (h : Header) : Nat := (h.fmt.extractLsb' 8 8).toNat
def Header.compression (h : Header) : Nat := (h.fmt.extractLsb' 16 8).toNat
def Header.filterMethod (h : Header) : Nat := (h.fmt.extractLsb' 24 8).toNat
def Header.interlace (h : Header) : Nat := h.il.toNat

/-- Channels of a color type (R93); a value that is no color type has none (log 11). -/
def channelsOf (ct : Nat) : Nat :=
  match ct with
  | 0 => 1
  | 2 => 3
  | 3 => 1
  | 4 => 2
  | 6 => 4
  | _ => 0

/-- The legal color types (R93). -/
def colorTypeLegal (ct : Nat) : Bool := [0, 2, 3, 4, 6].contains ct

/-- The legal bit depths of a color type (R94). -/
def depthLegal (ct d : Nat) : Bool :=
  match ct with
  | 0 => [1, 2, 4, 8, 16].contains d
  | 2 => [8, 16].contains d
  | 3 => [1, 2, 4, 8].contains d
  | 4 => [8, 16].contains d
  | 6 => [8, 16].contains d
  | _ => false

/-- HdrFmtValid (R95). -/
def Header.fmtValid (h : Header) : Bool := colorTypeLegal h.colorType && depthLegal h.colorType h.bitDepth

/-- HdrImageValid (R96). -/
def Header.imageValid (h : Header) : Bool :=
  h.fmtValid && decide (1 ≤ h.width.toNat) && decide (1 ≤ h.height.toNat) && [0, 1].contains h.interlace

/-! ### Geometry (42_bit_unpacker.md) -/

/-- ch (R170). -/
def Header.channels (h : Header) : Nat := channelsOf h.colorType

/-- Bits per pixel (R172). -/
def Header.bitsPerPixel (h : Header) : Nat := h.bitDepth * h.channels

/-- bpp = max(1, ceil(bits / 8)) (R172). -/
def Header.bpp (h : Header) : Nat := max 1 (ceilDiv h.bitsPerPixel 8)

/-- RB(w) = ceil(d × ch × w / 8) (R173). -/
def Header.rowBytes (h : Header) (w : Nat) : Nat := ceilDiv (h.bitDepth * h.channels * w) 8

/-- n(w) = w × ch (R174). -/
def Header.samples (h : Header) (w : Nat) : Nat := w * h.channels

/-- SW (R175). A BIT_DEPTH above 8 that is not 16 has none in R175; it counts as 2 in the ranges of a running command that
will raise E_HEADER (log 11). -/
def Header.sampleWidth (h : Header) : Nat := if h.bitDepth ≤ 8 then 1 else 2

/-- The sizes of a row fit 32 bits (R177 check 5, 60_exceptions.md R241). -/
def Header.rowFits (h : Header) (w : Nat) : Bool :=
  decide (1 + h.rowBytes w ≤ u32Max) && decide (h.samples w * h.sampleWidth ≤ u32Max)

/-- The filtered row fits 32 bits (R206, R207 check 5). -/
def Header.filteredRowFits (h : Header) (w : Nat) : Bool := decide (1 + h.rowBytes w ≤ u32Max)

/-! ### Adam7 (44_adam7.md) -/

/-- A row of the pass table (R220). -/
structure PassGrid where
  xs : Nat
  ys : Nat
  xd : Nat
  yd : Nat
  deriving DecidableEq, Repr

/-- The pass table (R220). Pass numbers above 7 raise E_ARG_RANGE before it is read. -/
def passGrid (p : Nat) : PassGrid :=
  match p with
  | 1 => ⟨0, 0, 8, 8⟩
  | 2 => ⟨4, 0, 8, 8⟩
  | 3 => ⟨0, 4, 4, 8⟩
  | 4 => ⟨2, 0, 4, 4⟩
  | 5 => ⟨0, 2, 2, 4⟩
  | 6 => ⟨1, 0, 2, 2⟩
  | 7 => ⟨0, 1, 1, 2⟩
  | _ => ⟨0, 0, 1, 1⟩

/-- PassDims (R221) on one axis: the grid points start, start + stride, … below `size`. -/
def gridPoints (size start stride : Nat) : Nat :=
  if size > start then (size - start + stride - 1) / stride else 0

/-- PassDims(p, W, H) (R221). -/
def passDims (p w h : Nat) : Nat × Nat :=
  let g := passGrid p
  (gridPoints w g.xs g.xd, gridPoints h g.ys g.yd)

/-- The passes of an image, in order (R101, R220). An INTERLACE above 1 counts as Adam7 in the ranges of a running command
that will raise E_HEADER (log 11). -/
def passList (interlace : Nat) : List Nat := if interlace = 0 then [0] else [1, 2, 3, 4, 5, 6, 7]

/-- The contributing passes of an image, each as (RB(pw), ph); a pass of zero width or height is skipped (R221). -/
def Header.passRows (h : Header) : List (Nat × Nat) :=
  (passList h.interlace).filterMap fun p =>
    let d := passDims p h.width.toNat h.height.toNat
    if d.1 = 0 || d.2 = 0 then none else some (h.rowBytes d.1, d.2)

/-- S: the bytes of the filtered image stream (R178, 30_encoding.md R101). -/
def filteredBytes (ps : List (Nat × Nat)) : Nat := (ps.map fun p => p.2 * (1 + p.1)).sum

/-- Rw: the bytes of the raw row image (R178, 30_encoding.md R102). -/
def rawBytes (ps : List (Nat × Nat)) : Nat := (ps.map fun p => p.2 * p.1).sum

/-- N: the scanlines (R178). -/
def scanlines (ps : List (Nat × Nat)) : Nat := (ps.map fun p => p.2).sum

/-- The sizes of an image fit 32 bits (R178 check 5). -/
def Header.imageFits (h : Header) : Bool :=
  decide (filteredBytes h.passRows ≤ u32Max) && h.passRows.all (fun p => decide (1 + p.1 ≤ u32Max))

/-! ### Chunks (20_memory.md R67, 30_encoding.md R90, R99) -/

/-- The PNG signature (R90). -/
def pngSignature : List Byte := [0x89, 0x50, 0x4E, 0x47, 0x0D, 0x0A, 0x1A, 0x0A]

/-- The chunk types with a meaning, as their four ASCII bytes (R67). -/
def tIHDR : List Byte := [0x49, 0x48, 0x44, 0x52]
def tPLTE : List Byte := [0x50, 0x4C, 0x54, 0x45]
def tIDAT : List Byte := [0x49, 0x44, 0x41, 0x54]
def tIEND : List Byte := [0x49, 0x45, 0x4E, 0x44]
def tTRNS : List Byte := [0x74, 0x52, 0x4E, 0x53]

/-- kind(T) (R99). -/
def chunkKind (t : List Byte) : Word :=
  if t = tIHDR then 1
  else if t = tPLTE then 2
  else if t = tIDAT then 3
  else if t = tIEND then 4
  else if t = tTRNS then 5
  else 0

/-- L of the chunk at buffer address `o` (41_chunk_framer.md R132). -/
def State.chunkLength (s : State) (o : Nat) : Nat := beValue (s.memRead o 4)

/-- T of the chunk at buffer address `o` (R132). -/
def State.chunkType (s : State) (o : Nat) : List Byte := s.memRead (o + 4) 4

/-- k, the IDAT chunks of a payload of `len` bytes split at `most` (41_chunk_framer.md R157). For `most` = 0, which
EM_IDAT refuses with E_ARG_RANGE, R157 gives none; it counts as 1 in the write set of the running command (log 11). -/
def idatChunks (len most : Nat) : Nat := max 1 (ceilDiv len most)

/-! ### Read sets and write sets (20_memory.md R64), in check order -/

/-- The prior row of a row command, absent when ZP = 1. -/
def priorRange (o : OperandRegs) (zp : Bool) (rb : Nat) : List Range := if zp then [] else [⟨o.arg2.toNat, rb⟩]

/-- The read set of a command on the operands `o`; `s` gives the memory FR_NEXT reads L from. -/
def readSet (i : Instr) (o : OperandRegs) (s : State) : List Range :=
  let h := o.hdr
  match i with
  | .unfilterRow zp =>
    ⟨o.arg0.toNat, 1 + h.rowBytes o.arg3.toNat⟩ :: priorRange o zp (h.rowBytes o.arg3.toNat)
  | .filterRow _ zp => ⟨o.arg0.toNat, h.rowBytes o.arg3.toNat⟩ :: priorRange o zp (h.rowBytes o.arg3.toNat)
  | .unfilterImage => [⟨o.arg0.toNat, filteredBytes h.passRows⟩]
  | .filterImage _ => [⟨o.arg0.toNat, rawBytes h.passRows⟩]
  | .unpackRow => [⟨o.arg0.toNat, h.rowBytes o.arg2.toNat⟩]
  | .packRow => [⟨o.arg0.toNat, h.samples o.arg2.toNat * h.sampleWidth⟩]
  | .crcUpdate _ _ => [⟨o.arg0.toNat, o.arg1.toNat⟩]
  | .frStart => [⟨o.arg0.toNat, min 8 o.arg1.toNat⟩]
  | .frNext =>
    let m := o.frLimit.toNat - o.frCursor.toNat
    [⟨o.frCursor.toNat, min (12 + s.chunkLength o.frCursor.toNat) m⟩]
  | .emChunk => [⟨o.arg1.toNat, o.arg2.toNat⟩]
  | .emIdat => [⟨o.arg1.toNat, o.arg2.toNat⟩]
  | .nop | .geom | .imglen | .a7Dims | .a7Map | .a7Inv | .frFinish => []
  | .emStart | .emIhdr | .emIend => []
  | .filterTypeNone | .filterTypeSub | .filterTypeUp | .filterTypeAverage | .filterTypePaeth => []

/-- The write set of a command on the operands `o`. -/
def writeSet (i : Instr) (o : OperandRegs) : List Range :=
  let h := o.hdr
  match i with
  | .unfilterRow _ => [⟨o.arg1.toNat, h.rowBytes o.arg3.toNat⟩]
  | .filterRow _ _ => [⟨o.arg1.toNat, 1 + h.rowBytes o.arg3.toNat⟩]
  | .unfilterImage => [⟨o.arg1.toNat, rawBytes h.passRows⟩]
  | .filterImage _ => [⟨o.arg1.toNat, filteredBytes h.passRows⟩]
  | .unpackRow => [⟨o.arg1.toNat, h.samples o.arg2.toNat * h.sampleWidth⟩]
  | .packRow => [⟨o.arg1.toNat, h.rowBytes o.arg2.toNat⟩]
  | .emStart => [⟨o.arg0.toNat, 8⟩]
  | .emChunk => [⟨o.emCursor.toNat, 12 + o.arg2.toNat⟩]
  | .emIhdr => [⟨o.emCursor.toNat, 25⟩]
  | .emIdat => [⟨o.emCursor.toNat, 12 * idatChunks o.arg2.toNat o.idatMax.toNat + o.arg2.toNat⟩]
  | .emIend => [⟨o.emCursor.toNat, 12⟩]
  | .nop | .geom | .imglen | .a7Dims | .a7Map | .a7Inv | .crcUpdate _ _ => []
  | .frStart | .frNext | .frFinish => []
  | .filterTypeNone | .filterTypeSub | .filterTypeUp | .filterTypeAverage | .filterTypePaeth => []

/-- Steps 7 and 8 of R112 for a command whose ranges are all checked (R63, R65). -/
def rangeChecks (i : Instr) (o : OperandRegs) (s : State) : List Check :=
  boundsChecks s.memSize (readSet i o s ++ writeSet i o) (raise .bounds)
    ++ overlapChecks (readSet i o s) (writeSet i o) (raise .overlap)

end Sys2Proof.Machine
end

