-- ==== Sys2Proof/Machine/Flags.lean ====
section
/-!
DEFINITION. The words a host reads from the state registers, bit by bit (10_state.md R21, R23, R24, R35, R36, R40),
the interrupt level (R49), and the class of an error (60_exceptions.md R242).
-/

namespace Sys2Proof.Machine

/-- A flag at bit `k` of a register. -/
def bitAt (b : Bool) (k : Nat) : Nat := b.toNat * 2 ^ k

/-- STATUS.BUSY (R23, R46). -/
def State.busy (s : State) : Bool :=
  match s.phase with
  | .busy _ => true
  | .idle => false

/-- ID (R21). -/
def idWord : Word := 0x504E4701

/-- STATUS (R23). -/
def State.statusWord (s : State) : Word :=
  u32 (bitAt s.busy 0 + bitAt s.status.done 1 + bitAt s.status.err 2 + bitAt s.status.lost 3
    + s.status.errCode.toNat * 2 ^ 8)

/-- CTRL: IRQ_EN; CLR and SRST read 0 (R24). -/
def State.ctrlWord (s : State) : Word := u32 (bitAt s.irqEn 0)

/-- IDAT_STATE's code (R36). -/
def IdatState.code (i : IdatState) : Nat :=
  match i with
  | .noIdat => 0
  | .isOpen => 1
  | .closed => 2

/-- Bits [5:1] of FR_STATE and EM_STATE (R36, R40). -/
def ChunkOrder.bits (c : ChunkOrder) : Nat :=
  bitAt c.ihdrSeen 1 + bitAt c.plteSeen 2 + c.idat.code * 2 ^ 3 + bitAt c.iendSeen 5

/-- FR_STATE (R36). -/
def FrState.toWord (f : FrState) : Word := u32 (bitAt f.sigOk 0 + f.order.bits + bitAt f.fail 6 + bitAt f.done 7)

/-- EM_STATE (R40). -/
def EmState.toWord (e : EmState) : Word := u32 (bitAt e.started 0 + e.order.bits)

/-- The ordering fields that the bits of a word stand for; IDAT_STATE 3 never occurs (R36). -/
def ChunkOrder.ofWord (w : Word) : ChunkOrder where
  ihdrSeen := w.getLsbD 1
  plteSeen := w.getLsbD 2
  idat := if w.getLsbD 4 then .closed else if w.getLsbD 3 then .isOpen else .noIdat
  iendSeen := w.getLsbD 5

/-- An FR_STATE from a word. -/
def FrState.ofWord (w : Word) : FrState := ⟨w.getLsbD 0, .ofWord w, w.getLsbD 6, w.getLsbD 7⟩

/-- An EM_STATE from a word. -/
def EmState.ofWord (w : Word) : EmState := ⟨w.getLsbD 0, .ofWord w⟩

/-- HDR_IL: bits [31:8] read 0 (R35). -/
def Header.ilWord (h : Header) : Word := h.il.setWidth 32

/-- IRQ = CTRL.IRQ_EN AND (STATUS.DONE OR STATUS.ERR) (R49, 60_exceptions.md R250). -/
def State.irq (s : State) : Bool := s.irqEn && (s.status.done || s.status.err)

/-- CTRL.CLR: clears DONE, ERR, LOST and ERRCODE (R24). -/
def State.clearStatus (s : State) : State := { s with status := .reset }

/-- STATUS.LOST is set (R44). -/
def State.setLost (s : State) : State := { s with status := { s.status with lost := true } }

/-- Every error code, in the order of R240. -/
def ErrCode.all : List ErrCode :=
  [.signature, .truncated, .length, .crc, .ihdrNotFirst, .dupIhdr, .dupPlte, .idatNoncontig, .afterIend, .missingIdat,
    .missingIend, .ihdrLength, .ihdrField, .iendLength, .plteLength, .filterType, .dataLength]
    ++ [.header, .sampleRange, .capacity, .illegalCmd, .sequence, .argRange, .bounds, .overlap, .overflow]

/-- The class of an error (60_exceptions.md R242). -/
inductive ErrClass where
  | format
  | encoding
  | command
  deriving DecidableEq, Repr

/-- FR_START, FR_NEXT, FR_FINISH, UNFILTER_ROW or UNFILTER_IMAGE: the decode path (R242). -/
def decodePath (i : Instr) : Bool :=
  match i with
  | .frStart | .frNext | .frFinish | .unfilterRow _ | .unfilterImage => true
  | _ => false

/-- EM_CHUNK, EM_IHDR, EM_IDAT, EM_IEND or FILTER_IMAGE: the commands that refuse to write a non-conformant stream
(R242). -/
def streamWriter (i : Instr) : Bool :=
  match i with
  | .emChunk | .emIhdr | .emIdat | .emIend | .filterImage _ => true
  | _ => false

/-- The encode-side commands (R242). -/
def encodeSide (i : Instr) : Bool :=
  match i with
  | .packRow | .filterRow _ _ | .filterImage _ | .emStart | .emChunk | .emIhdr | .emIdat | .emIend => true
  | _ => false

/-- GEOM, IMGLEN, UNPACK_ROW, UNFILTER_ROW or UNFILTER_IMAGE, whose E_HEADER is a command error (R242). -/
def headerMisuse (i : Instr) : Bool :=
  match i with
  | .geom | .imglen | .unpackRow | .unfilterRow _ | .unfilterImage => true
  | _ => false

/-- The class of error `e` raised by command `i`, none where R242 gives none. "The class is not stored in any
register": a host derives it. -/
def errClass (e : ErrCode) (i : Instr) : Option ErrClass :=
  let c := e.code.toNat
  if 0x10 ≤ c && c ≤ 0x20 && decodePath i then some .format
  else if 0x14 ≤ c && c ≤ 0x20 && streamWriter i then some .encoding
  else if 0x30 ≤ c && c ≤ 0x32 && encodeSide i then some .encoding
  else if 0x40 ≤ c && c ≤ 0x45 then some .command
  else if c = 0x30 && headerMisuse i then some .command
  else none

end Sys2Proof.Machine
end

