-- ==== Sys2Proof/Machine/Adam7.lean ====
section
/-!
DEFINITION. The Adam7 mapper: A7_DIMS, A7_MAP and A7_INV (44_adam7.md R222-R224). None reads HDR_FMT or HDR_IL.
-/

namespace Sys2Proof.Machine

/-- PassDims of the latched header (R221). -/
def Header.passDims (h : Header) (p : Nat) : Nat × Nat := Machine.passDims p h.width.toNat h.height.toNat

/-- The image column of column `px` of pass `p` (R221). -/
def imageX (p px : Nat) : Nat := (passGrid p).xs + px * (passGrid p).xd

/-- The image row of row `py` of pass `p` (R221). -/
def imageY (p py : Nat) : Nat := (passGrid p).ys + py * (passGrid p).yd

/-- Image pixel (x, y) is a grid point of pass `p` (R224). -/
def inPass (p x y : Nat) : Bool :=
  let g := passGrid p
  decide (g.xs ≤ x) && decide (g.ys ≤ y) && (x - g.xs) % g.xd == 0 && (y - g.ys) % g.yd == 0

/-- The pass of 1 to 7 that holds image pixel (x, y) (R224, R229). -/
def passOf (x y : Nat) : Nat := ([1, 2, 3, 4, 5, 6, 7].find? (fun p => inPass p x y)).getD 7

/-- A7_DIMS (R222). -/
def execA7Dims (s : State) : Host.Outcome State Fault Refusal :=
  let o := s.operands
  let d := o.hdr.passDims o.arg0.toNat
  conclude [⟨decide (o.arg0.toNat ≤ 7), raise .argRange⟩] s.failWith
    (.next (s.withResults (u32 d.1) (u32 d.2) (if d.1 = 0 ∨ d.2 = 0 then 1 else 0) 0).succeed)

/-- A7_MAP (R223). -/
def execA7Map (s : State) : Host.Outcome State Fault Refusal :=
  let o := s.operands
  let p := o.arg0.toNat
  let d := o.hdr.passDims p
  let inside := decide (p ≤ 7) && decide (o.arg1.toNat < d.1) && decide (o.arg2.toNat < d.2)
  conclude [⟨inside, raise .argRange⟩] s.failWith
    (.next (s.withResults (u32 (imageX p o.arg1.toNat)) (u32 (imageY p o.arg2.toNat)) 0 0).succeed)

/-- A7_INV (R224). -/
def execA7Inv (s : State) : Host.Outcome State Fault Refusal :=
  let o := s.operands
  let x := o.arg0.toNat
  let y := o.arg1.toNat
  let p := passOf x y
  let g := passGrid p
  let inside := decide (x < o.hdr.width.toNat) && decide (y < o.hdr.height.toNat)
  conclude [⟨inside, raise .argRange⟩] s.failWith
    (.next (s.withResults (u32 p) (u32 ((x - g.xs) / g.xd)) (u32 ((y - g.ys) / g.yd)) 0).succeed)

end Sys2Proof.Machine
end

