-- ==== Sys2Proof/Machine/Crc.lean ====
section
/-!
DEFINITION. CRC-32 (41_chunk_framer.md R130) and the command CRC_UPDATE (R131).
-/

namespace Sys2Proof.Machine

/-- One bit of `crcStep` (R130). -/
def crcBit (c : Word) : Word := if c.getLsbD 0 then (c >>> 1) ^^^ 0xEDB88320#32 else c >>> 1

/-- crcStep(c, byte) (R130). -/
def crcStep (c : Word) (b : Byte) : Word := (crcBit)^[8] (c ^^^ b.setWidth 32)

/-- crcAbsorb(c, s) (R130). -/
def crcAbsorb (c : Word) (bs : List Byte) : Word := bs.foldl crcStep c

/-- The initial value and the final complement (R130). -/
def crcInit : Word := 0xFFFFFFFF

/-- CRC32(s) (R130). -/
def crc32 (bs : List Byte) : Word := crcAbsorb crcInit bs ^^^ crcInit

/-- CRC_UPDATE (R131). -/
def execCrcUpdate (ci cf : Bool) (s : State) : Host.Outcome State Fault Refusal :=
  let o := s.operands
  let c := crcAbsorb (if ci then crcInit else o.crc) (s.memRead o.arg0.toNat o.arg1.toNat)
  conclude (rangeChecks (.crcUpdate ci cf) o s) s.failWith
    (.next ({ s with regs := { s.regs with crc := if cf then crcInit else c } }.withResults (c ^^^ crcInit) 0 0 0).succeed)

end Sys2Proof.Machine
end

