-- ==== Sys2Proof/Machine/Framer.lean ====
section
/-!
DEFINITION. The chunk framer: the acceptance function shared with the emitter (41_chunk_framer.md R133-R137, R141)
and the parser commands FR_START, FR_NEXT and FR_FINISH (R138, R139, R145).
-/

namespace Sys2Proof.Machine

/-! ### Accept (R133) -/

/-- IhdrCheck(L, P) of a chunk at stream offset `q` (R134). -/
def ihdrChecks (q : Word) (t : List Byte) (len : Nat) (p : List Byte) : List Check :=
  let ct := (byteAt p 9).toNat
  let field (ok : Bool) (k : Word) : Check := ⟨ok, ⟨.ihdrField, q + 8 + k, packType t⟩⟩
  [ ⟨len == 13, ⟨.ihdrLength, q, packType t⟩⟩,
    field (beValue (p.take 4) != 0) 0,
    field (beValue ((p.drop 4).take 4) != 0) 4,
    field (colorTypeLegal ct) 9,
    field (depthLegal ct (byteAt p 8).toNat) 8,
    field (byteAt p 10 == 0) 10,
    field (byteAt p 11 == 0) 11,
    field ([0, 1].contains (byteAt p 12).toNat) 12 ]

/-- PlteCheck(L) (R135). -/
def plteCheck (q : Word) (t : List Byte) (len : Nat) : Check :=
  ⟨len != 0 && len % 3 == 0 && decide (len ≤ 768), ⟨.plteLength, q, packType t⟩⟩

/-- IendCheck(L) (R136). -/
def iendCheck (q : Word) (t : List Byte) (len : Nat) : Check := ⟨len == 0, ⟨.iendLength, q, packType t⟩⟩

/-- The checks of Accept(st, T, L, P), in order (R133), for a chunk at stream offset `q`. -/
def acceptChecks (c : ChunkOrder) (q : Word) (t : List Byte) (len : Nat) (p : List Byte) : List Check :=
  let chunk := packType t
  [ ⟨!c.iendSeen, ⟨.afterIend, q, chunk⟩⟩,
    ⟨c.ihdrSeen || t == tIHDR, ⟨.ihdrNotFirst, q, chunk⟩⟩,
    ⟨!(t == tIHDR && c.ihdrSeen), ⟨.dupIhdr, q, chunk⟩⟩,
    ⟨!(t == tPLTE && c.plteSeen), ⟨.dupPlte, q, chunk⟩⟩,
    ⟨!(t == tIDAT && c.idat == .closed), ⟨.idatNoncontig, q, chunk⟩⟩,
    ⟨!(t == tIEND && c.idat == .noIdat), ⟨.missingIdat, q, chunk⟩⟩ ]
  ++ (if t = tIHDR then ihdrChecks q t len p else [])
  ++ (if t = tPLTE then [plteCheck q t len] else [])
  ++ (if t = tIEND then [iendCheck q t len] else [])

/-- Update(st, T) (R137). -/
def ChunkOrder.update (c : ChunkOrder) (t : List Byte) : ChunkOrder where
  ihdrSeen := c.ihdrSeen || t == tIHDR
  plteSeen := c.plteSeen || t == tPLTE
  idat := if t = tIDAT then .isOpen else if c.idat = .isOpen then .closed else c.idat
  iendSeen := c.iendSeen || t == tIEND

/-- LoadHeader(P): the header registers from an IHDR payload (R141, 30_encoding.md R97). -/
def loadHeader (p : List Byte) : Header where
  width := u32 (beValue (p.take 4))
  height := u32 (beValue ((p.drop 4).take 4))
  fmt := byteAt p 11 ++ byteAt p 10 ++ byteAt p 9 ++ byteAt p 8
  il := byteAt p 12

/-- The header registers after a chunk is accepted: an 'IHDR' loads them (R141). -/
def headerAfter (h : Header) (t p : List Byte) : Header := if t = tIHDR then loadHeader p else h

/-! ### FR_START (R138) -/

/-- The signature checks of FR_START, byte by byte, then the length. -/
def signatureChecks (o : OperandRegs) (s : State) : List Check :=
  (List.range (min 8 o.arg1.toNat)).map
      (fun i => ⟨s.readByte (o.arg0.toNat + i) == byteAt pngSignature i, ⟨.signature, u32 i, 0⟩⟩)
    ++ [⟨decide (8 ≤ o.arg1.toNat), ⟨.signature, o.arg1, 0⟩⟩]

/-- The checks of FR_START. -/
def frStartChecks (o : OperandRegs) (s : State) : List Check :=
  [⟨decide (o.arg0.toNat + o.arg1.toNat ≤ u32Max), raise .overflow⟩]
    ++ boundsChecks s.memSize [⟨o.arg0.toNat, o.arg1.toNat⟩] (raise .bounds)
    ++ signatureChecks o s

/-- FR_START (R138). -/
def execFrStart (s : State) : Host.Outcome State Fault Refusal :=
  let o := s.operands
  let parsed : OperandRegs :=
    { s.regs with
      fr := ⟨true, .reset, false, false⟩
      frBase := o.arg0
      frCursor := o.arg0 + 8
      frLimit := o.arg0 + o.arg1 }
  conclude (frStartChecks o s) s.failFramer (.next (({ s with regs := parsed }).withResults (o.arg1 - 8) 0 0 0).succeed)

/-! ### FR_NEXT (R139) -/

/-- Step 2 of FR_NEXT. -/
def frNextSequence (o : OperandRegs) : Check :=
  ⟨o.fr.sigOk && !o.fr.fail && !o.fr.done && !(o.fr.order.iendSeen && o.frCursor == o.frLimit), raise .sequence⟩

/-- Step 7 of FR_NEXT. After FR_START it always holds (20_memory.md R64); registers that a race has left pointing
outside the memory raise E_BOUNDS here, which names the chunk if its type bytes exist and can be read (60_exceptions.md
R245; log 13). -/
def frNextBounds (o : OperandRegs) (s : State) : List Check :=
  let at0 := o.frCursor.toNat
  let typeThere := at0 + 8 ≤ min o.frLimit.toNat s.memSize
  boundsChecks s.memSize (readSet .frNext o s) ⟨.bounds, 0, if typeThere then packType (s.chunkType at0) else 0⟩

/-- Step 9 of FR_NEXT, for the chunk at FR_CURSOR: order, room, length, CRC, then Accept (R247). The stream offset `q` is
free when a race has left FR_CURSOR below FR_BASE (log 21). -/
def frNextChecks (o : OperandRegs) (s : State) : List Check :=
  let at0 := o.frCursor.toNat
  let q := offsetFrom o.frCursor o.frBase
  let m := o.frLimit.toNat - at0
  let len := s.chunkLength at0
  let t := s.chunkType at0
  let p := s.memRead (at0 + 8) len
  [ ⟨!o.fr.order.iendSeen, ⟨.afterIend, q, 0⟩⟩,
    ⟨decide (12 ≤ m), ⟨.truncated, q, if 8 ≤ m then packType t else 0⟩⟩,
    ⟨decide (12 + len ≤ m), ⟨.length, q, packType t⟩⟩,
    ⟨crc32 (t ++ p) == u32 (beValue (s.memRead (at0 + 8 + len) 4)), ⟨.crc, q, packType t⟩⟩ ]
  ++ acceptChecks o.fr.order q t len p

/-- What FR_NEXT does with an accepted chunk. -/
def frNextEffect (o : OperandRegs) (s : State) : State :=
  let at0 := o.frCursor.toNat
  let len := s.chunkLength at0
  let t := s.chunkType at0
  let p := s.memRead (at0 + 8) len
  let parsed : OperandRegs :=
    { s.regs with
      fr := { o.fr with order := o.fr.order.update t }
      frCursor := u32 (at0 + 12 + len)
      hdr := headerAfter s.regs.hdr t p }
  ({ s with regs := parsed }).withResults (packType t) (u32 len) (u32 (at0 + 8)) (chunkKind t)

/-- FR_NEXT (R139). -/
def execFrNext (s : State) : Host.Outcome State Fault Refusal :=
  let o := s.operands
  conclude (frNextSequence o :: frNextBounds o s ++ frNextChecks o s) s.failFramer (.next (frNextEffect o s).succeed)

/-! ### FR_FINISH (R145) -/

/-- The checks of FR_FINISH. The stream offset `q` is free when a race has left FR_CURSOR below FR_BASE (log 21). -/
def frFinishChecks (o : OperandRegs) : List Check :=
  let q := offsetFrom o.frCursor o.frBase
  [ ⟨o.fr.sigOk && !o.fr.fail && !o.fr.done, raise .sequence⟩,
    ⟨o.fr.order.iendSeen, ⟨.missingIend, q, 0⟩⟩,
    ⟨!decide (o.frCursor.toNat < o.frLimit.toNat), ⟨.afterIend, q, 0⟩⟩ ]

/-- FR_FINISH (R145). RES0 is free when a race has left FR_LIMIT below FR_BASE (log 21). -/
def execFrFinish (s : State) : Host.Outcome State Fault Refusal :=
  let o := s.operands
  let finished : OperandRegs := { s.regs with fr := { o.fr with done := true } }
  conclude (frFinishChecks o) s.failFramer
    (.next (({ s with regs := finished }).withResults (offsetFrom o.frLimit o.frBase) 0 0 0).succeed)

end Sys2Proof.Machine
end

