-- ==== Sys2Proof/Machine/Emitter.lean ====
section
/-!
DEFINITION. The emitter: EM_START, EM_CHUNK, EM_IHDR, EM_IDAT and EM_IEND (41_chunk_framer.md R150-R158). Emitter
errors change no EM_* register and write no byte (R151).
-/

namespace Sys2Proof.Machine

/-- The bytes of one chunk: length, type, payload, CRC (30_encoding.md R91). -/
def chunkBytes (t p : List Byte) : List Byte := bytesBE4 (u32 p.length) ++ t ++ p ++ bytesBE4 (crc32 (t ++ p))

/-- EM_CURSOR − EM_BASE: the stream offset where the next chunk starts (R151); free when a race has left EM_CURSOR below
EM_BASE (log 21). -/
def OperandRegs.emOffset (o : OperandRegs) : Word := offsetFrom o.emCursor o.emBase

/-- Step 2 of the emit commands: E_SEQUENCE if STARTED = 0. -/
def emSequence (o : OperandRegs) : Check := ⟨o.em.started, raise .sequence⟩

/-- Step 6 of the emit commands: `n` bytes fit between EM_CURSOR and EM_LIMIT. -/
def emCapacity (o : OperandRegs) (n : Nat) (chunk : Word) : Check :=
  ⟨decide (n ≤ o.emLimit.toNat - o.emCursor.toNat), ⟨.capacity, o.emOffset, chunk⟩⟩

/-- E_ARG_RANGE, E_OVERFLOW, E_BOUNDS and E_OVERLAP of the emit commands that emit a chunk: ERR_OFFSET is 0, and
ERR_CHUNK the packed type of the chunk being emitted (10_state.md R29, R151, 60_exceptions.md R245; log 9). -/
def argRaise (c : ErrCode) (chunk : Word) : Raise := ⟨c, 0, chunk⟩

/-- Emitting the bytes `bs`: they go to EM_CURSOR, which advances by their number, and the ordering state follows the
chunk type `t` (R152). -/
def State.emit (s : State) (o : OperandRegs) (t bs : List Byte) : State :=
  let w := s.memWrite o.emCursor.toNat bs
  { w with
    regs :=
      { w.regs with
        em := { o.em with order := o.em.order.update t }
        emCursor := u32 (o.emCursor.toNat + bs.length) } }

/-- Step 7 for the `n` bytes an emit command writes. EM_START has checked [EM_BASE, EM_LIMIT), so E_CAPACITY implies it
(20_memory.md R64); registers that a race has left pointing outside the memory raise E_BOUNDS here (log 13). -/
def emitBounds (o : OperandRegs) (s : State) (n : Nat) (chunk : Word) : List Check :=
  boundsChecks s.memSize [⟨o.emCursor.toNat, n⟩] (argRaise .bounds chunk)

/-- The checks of EM_START (R150). -/
def emStartChecks (o : OperandRegs) (s : State) : List Check :=
  [ ⟨decide (o.arg0.toNat + o.arg1.toNat ≤ u32Max), raise .overflow⟩,
    ⟨decide (8 ≤ o.arg1.toNat), raise .capacity⟩ ]
  ++ boundsChecks s.memSize [⟨o.arg0.toNat, o.arg1.toNat⟩] (raise .bounds)

/-- EM_START (R150). -/
def execEmStart (s : State) : Host.Outcome State Fault Refusal :=
  let o := s.operands
  let w := s.memWrite o.arg0.toNat pngSignature
  let started : OperandRegs :=
    { w.regs with
      em := ⟨true, .reset⟩
      emBase := o.arg0
      emCursor := o.arg0 + 8
      emLimit := o.arg0 + o.arg1 }
  conclude (emStartChecks o s) s.failWith (.next (({ w with regs := started }).withResults 8 0 0 0).succeed)

/-- The checks of EM_CHUNK (R152). -/
def emChunkChecks (o : OperandRegs) (s : State) : List Check :=
  let len := o.arg2.toNat
  let reads : List Range := [⟨o.arg1.toNat, len⟩]
  [ emSequence o,
    ⟨decide (12 + len ≤ u32Max), argRaise .overflow o.arg0⟩,
    emCapacity o (12 + len) o.arg0 ]
  ++ boundsChecks s.memSize reads (argRaise .bounds o.arg0)
  ++ emitBounds o s (12 + len) o.arg0
  ++ overlapChecks reads [⟨o.emCursor.toNat, 12 + len⟩] (argRaise .overlap o.arg0)
  ++ acceptChecks o.em.order o.emOffset (bytesBE4 o.arg0) len (s.memRead o.arg1.toNat len)

/-- What an emit command does with an accepted chunk of type `t` and payload `p`: it writes the chunk, an 'IHDR' loads
the header registers, RES0 is the bytes written and RES1 the CRC (R152). -/
def State.emitChunk (s : State) (o : OperandRegs) (t p : List Byte) : State :=
  let e := s.emit o t (chunkBytes t p)
  ({ e with regs := { e.regs with hdr := headerAfter e.regs.hdr t p } }).withResults
    (u32 (12 + p.length)) (crc32 (t ++ p)) 0 0

/-- EM_CHUNK (R152). -/
def execEmChunk (s : State) : Host.Outcome State Fault Refusal :=
  let o := s.operands
  let len := o.arg2.toNat
  conclude (emChunkChecks o s) s.failWith
    (.next (s.emitChunk o (bytesBE4 o.arg0) (s.memRead o.arg1.toNat len)).succeed)

/-- The IHDR payload of the header registers (R156, 30_encoding.md R97). -/
def headerPayload (h : Header) : List Byte :=
  bytesBE4 h.width ++ bytesBE4 h.height
    ++ [h.fmt.extractLsb' 0 8, h.fmt.extractLsb' 8 8, h.fmt.extractLsb' 16 8, h.fmt.extractLsb' 24 8, h.il]

/-- The checks of EM_IHDR (R156). -/
def emIhdrChecks (o : OperandRegs) (s : State) : List Check :=
  [emSequence o, emCapacity o 25 (packType tIHDR)]
    ++ emitBounds o s 25 (packType tIHDR)
    ++ acceptChecks o.em.order o.emOffset tIHDR 13 (headerPayload o.hdr)

/-- EM_IHDR (R156). -/
def execEmIhdr (s : State) : Host.Outcome State Fault Refusal :=
  let o := s.operands
  conclude (emIhdrChecks o s) s.failWith (.next (s.emitChunk o tIHDR (headerPayload o.hdr)).succeed)

/-- The run of IDAT chunks of a payload, each but the last of `most` bytes (R157). -/
def idatRun (p : List Byte) (most : Nat) : List Byte :=
  (List.range (idatChunks p.length most)).flatMap (fun j => chunkBytes tIDAT ((p.drop (j * most)).take most))

/-- The checks of EM_IDAT (R157). -/
def emIdatChecks (o : OperandRegs) (s : State) : List Check :=
  let len := o.arg2.toNat
  let total := 12 * idatChunks len o.idatMax.toNat + len
  let reads : List Range := [⟨o.arg1.toNat, len⟩]
  [ emSequence o,
    ⟨o.idatMax != 0, argRaise .argRange (packType tIDAT)⟩,
    ⟨decide (total ≤ u32Max), argRaise .overflow (packType tIDAT)⟩,
    emCapacity o total (packType tIDAT) ]
  ++ boundsChecks s.memSize reads (argRaise .bounds (packType tIDAT))
  ++ emitBounds o s total (packType tIDAT)
  ++ overlapChecks reads [⟨o.emCursor.toNat, total⟩] (argRaise .overlap (packType tIDAT))
  ++ acceptChecks o.em.order o.emOffset tIDAT 0 []

/-- EM_IDAT (R157). -/
def execEmIdat (s : State) : Host.Outcome State Fault Refusal :=
  let o := s.operands
  let len := o.arg2.toNat
  let k := idatChunks len o.idatMax.toNat
  let bytes := idatRun (s.memRead o.arg1.toNat len) o.idatMax.toNat
  conclude (emIdatChecks o s) s.failWith
    (.next ((s.emit o tIDAT bytes).withResults (u32 (12 * k + len)) (u32 k) 0 0).succeed)

/-- The 12 bytes of the 'IEND' chunk (30_encoding.md R100). -/
def iendBytes : List Byte := [0x00, 0x00, 0x00, 0x00, 0x49, 0x45, 0x4E, 0x44, 0xAE, 0x42, 0x60, 0x82]

/-- The checks of EM_IEND (R158). -/
def emIendChecks (o : OperandRegs) (s : State) : List Check :=
  [emSequence o, emCapacity o 12 (packType tIEND)]
    ++ emitBounds o s 12 (packType tIEND)
    ++ acceptChecks o.em.order o.emOffset tIEND 0 []

/-- EM_IEND (R158). -/
def execEmIend (s : State) : Host.Outcome State Fault Refusal :=
  let o := s.operands
  conclude (emIendChecks o s) s.failWith
    (.next ((s.emit o tIEND iendBytes).withResults 12 0xAE426082 0 0).succeed)

end Sys2Proof.Machine
end

