-- ==== Sys2Proof/WellFormed.lean ====
section
/-!
DEFINITION. Which instructions have a legal encoding. The only field that can be ill-formed is FT: "where FT is
allowed, FT ≤ 5" (30_encoding.md R82, R83).
-/

namespace Sys2Proof

/-- FT is one of the five types or AUTO (R83). -/
def ftLegal (ft : BitVec 3) : Bool := decide (ft.toNat ≤ 5)

/-- The instruction is legal (R82). -/
def Instr.wellFormed : Instr → Bool
  | .filterRow ft _ => ftLegal ft
  | .filterImage ft => ftLegal ft
  | .nop | .unfilterRow _ | .unfilterImage | .geom | .imglen | .unpackRow | .packRow => true
  | .a7Dims | .a7Map | .a7Inv | .crcUpdate _ _ => true
  | .frStart | .frNext | .frFinish => true
  | .emStart | .emChunk | .emIhdr | .emIdat | .emIend => true
  | .filterTypeNone | .filterTypeSub | .filterTypeUp | .filterTypeAverage | .filterTypePaeth => true

end Sys2Proof
end

