-- ==== Sys2Proof/Decode.lean ====
section
/-!
DEFINITION. Decoding a command word (30_encoding.md R80-R86) and a filter-type byte (R92, 43_filter_engine.md R205),
total on any word and any byte and rejecting by name; then the encoder, written from the same tables.
-/

namespace Sys2Proof

/-- Why a word or byte is no instruction. Every one of a command word is E_ILLEGAL_CMD (R82); the last is
E_FILTER_TYPE (R205). -/
inductive Reject where
  /-- RSV, bits [31:14], is not 0 (R82). -/
  | reservedBits
  /-- OP is not in the opcode map (R84). -/
  | reservedOpcode
  /-- FT, ZP, CI or CF is set and the opcode may not set it (R82). -/
  | fieldNotAllowed
  /-- FT is 6 or 7 (R83). -/
  | reservedFilterSelect
  /-- A filter-type byte of 5 to 255 (R205). -/
  | reservedFilterType
  deriving DecidableEq, Repr

/-- A row of the opcode map (R81): the fields the opcode may set, and the instruction it stands for. -/
structure OpcodeRow where
  mayFt : Bool
  mayZp : Bool
  mayCrc : Bool
  make : (ft : BitVec 3) → (zp ci cf : Bool) → Instr

/-- An opcode that may set no field. -/
def OpcodeRow.plain (i : Instr) : OpcodeRow := ⟨false, false, false, fun _ _ _ _ => i⟩

/-- The opcode map (R81). -/
def opcodeRow (op : Nat) : Option OpcodeRow :=
  match op with
  | 0x00 => some (.plain .nop)
  | 0x01 => some ⟨false, true, false, fun _ zp _ _ => .unfilterRow zp⟩
  | 0x02 => some ⟨true, true, false, fun ft zp _ _ => .filterRow ft zp⟩
  | 0x03 => some (.plain .unfilterImage)
  | 0x04 => some ⟨true, false, false, fun ft _ _ _ => .filterImage ft⟩
  | 0x08 => some (.plain .geom)
  | 0x09 => some (.plain .imglen)
  | 0x0A => some (.plain .unpackRow)
  | 0x0B => some (.plain .packRow)
  | 0x10 => some (.plain .a7Dims)
  | 0x11 => some (.plain .a7Map)
  | 0x12 => some (.plain .a7Inv)
  | 0x18 => some ⟨false, false, true, fun _ _ ci cf => .crcUpdate ci cf⟩
  | 0x20 => some (.plain .frStart)
  | 0x21 => some (.plain .frNext)
  | 0x22 => some (.plain .frFinish)
  | 0x28 => some (.plain .emStart)
  | 0x29 => some (.plain .emChunk)
  | 0x2A => some (.plain .emIhdr)
  | 0x2B => some (.plain .emIdat)
  | 0x2C => some (.plain .emIend)
  | _ => none

/-- The fields of a command word (R80). -/
def wordOp (w : Word) : Nat := (w.extractLsb' 0 8).toNat
def wordFt (w : Word) : BitVec 3 := w.extractLsb' 8 3
def wordZp (w : Word) : Bool := w.getLsbD 11
def wordCi (w : Word) : Bool := w.getLsbD 12
def wordCf (w : Word) : Bool := w.getLsbD 13
def wordRsv (w : Word) : BitVec 18 := w.extractLsb' 14 18

/-- R86: any 32-bit word is one command with its field values, or illegal. -/
def decodeCommand (w : Word) : Except Reject Instr :=
  if wordRsv w ≠ 0 then .error .reservedBits
  else
    match opcodeRow (wordOp w) with
    | none => .error .reservedOpcode
    | some row =>
      if (wordFt w ≠ 0 && !row.mayFt) || (wordZp w && !row.mayZp) || ((wordCi w || wordCf w) && !row.mayCrc) then
        .error .fieldNotAllowed
      else if row.mayFt && !ftLegal (wordFt w) then .error .reservedFilterSelect
      else .ok (row.make (wordFt w) (wordZp w) (wordCi w) (wordCf w))

/-- The filter type a filter-type byte selects (R92), none for 5 to 255 (R205). -/
def filterTypeOf (b : Byte) : Option FilterType :=
  match b.toNat with
  | 0 => some .none
  | 1 => some .sub
  | 2 => some .up
  | 3 => some .average
  | 4 => some .paeth
  | _ => none

/-- The instruction of a filter type. -/
def filterInstr (t : FilterType) : Instr :=
  match t with
  | .none => .filterTypeNone
  | .sub => .filterTypeSub
  | .up => .filterTypeUp
  | .average => .filterTypeAverage
  | .paeth => .filterTypePaeth

/-- R92, R205: a filter-type byte. -/
def decodeFilterByte (b : Byte) : Except Reject Instr :=
  match filterTypeOf b with
  | some t => .ok (filterInstr t)
  | none => .error .reservedFilterType

/-- Decoding of both layers. -/
def decode (e : Encoded) : Except Reject Instr :=
  match e with
  | .command w => decodeCommand w
  | .filterByte b => decodeFilterByte b

/-- The instruction the decoder reads from an instruction of `nbits` bits whose bits are `w`, numbered as
spec/opcode_table.json numbers them: a row of 32 bits is a command word, a row of 8 bits a filter-type byte. -/
def decodeTableWord (nbits w : Nat) : Option Instr :=
  if nbits = 32 then (decodeCommand (BitVec.ofNat 32 w)).toOption
  else if nbits = 8 then (decodeFilterByte (BitVec.ofNat 8 w)).toOption
  else none

/-- A command word from its fields (R80), RSV = 0. -/
def commandWord (op : Nat) (ft : BitVec 3) (zp ci cf : Bool) : Word :=
  BitVec.ofNat 32 (op + ft.toNat * 0x100 + zp.toNat * 0x800 + ci.toNat * 0x1000 + cf.toNat * 0x2000)

/-- A command word that sets no field: "the OP value alone" (R82). -/
def plainWord (op : Nat) : Encoded := .command (commandWord op 0 false false false)

/-- The code of a filter type (R83, R92). -/
def FilterType.code (t : FilterType) : Byte :=
  match t with
  | .none => 0
  | .sub => 1
  | .up => 2
  | .average => 3
  | .paeth => 4

/-- The word or byte of an instruction (R81, R82, R92). -/
def encode (i : Instr) : Encoded :=
  match i with
  | .nop => plainWord 0x00
  | .unfilterRow zp => .command (commandWord 0x01 0 zp false false)
  | .filterRow ft zp => .command (commandWord 0x02 ft zp false false)
  | .unfilterImage => plainWord 0x03
  | .filterImage ft => .command (commandWord 0x04 ft false false false)
  | .geom => plainWord 0x08
  | .imglen => plainWord 0x09
  | .unpackRow => plainWord 0x0A
  | .packRow => plainWord 0x0B
  | .a7Dims => plainWord 0x10
  | .a7Map => plainWord 0x11
  | .a7Inv => plainWord 0x12
  | .crcUpdate ci cf => .command (commandWord 0x18 0 false ci cf)
  | .frStart => plainWord 0x20
  | .frNext => plainWord 0x21
  | .frFinish => plainWord 0x22
  | .emStart => plainWord 0x28
  | .emChunk => plainWord 0x29
  | .emIhdr => plainWord 0x2A
  | .emIdat => plainWord 0x2B
  | .emIend => plainWord 0x2C
  | .filterTypeNone => .filterByte FilterType.none.code
  | .filterTypeSub => .filterByte FilterType.sub.code
  | .filterTypeUp => .filterByte FilterType.up.code
  | .filterTypeAverage => .filterByte FilterType.average.code
  | .filterTypePaeth => .filterByte FilterType.paeth.code

end Sys2Proof
end

