-- ==== Sys2Proof/Machine/Unpacker.lean ====
section
/-!
DEFINITION. NOP (40_command_issue.md R116), the geometry reports GEOM and IMGLEN (42_bit_unpacker.md R177, R178) and
the bit-depth unpacker and packer UNPACK_ROW and PACK_ROW (R176, R179, R180).
-/

namespace Sys2Proof.Machine

/-- NOP (R116): acceptance and completion only. -/
def execNop (s : State) : Host.Outcome State Fault Refusal := .next s.succeed

/-- Step 3 of the row commands: E_HEADER if HdrFmtValid fails (30_encoding.md R95). -/
def fmtCheck (h : Header) : Check := ⟨h.fmtValid, raise .header⟩

/-- Step 3 of the image commands: E_HEADER if HdrImageValid fails (30_encoding.md R96). -/
def imageCheck (h : Header) : Check := ⟨h.imageValid, raise .header⟩

/-- Step 5 of GEOM, UNPACK_ROW and PACK_ROW (R177). -/
def rowFitsCheck (h : Header) (w : Nat) : Check := ⟨h.rowFits w, raise .overflow⟩

/-- Step 5 of the image commands (R178). -/
def imageFitsCheck (h : Header) : Check := ⟨h.imageFits, raise .overflow⟩

/-- GEOM (R177). -/
def execGeom (s : State) : Host.Outcome State Fault Refusal :=
  let o := s.operands
  let h := o.hdr
  conclude [fmtCheck h, rowFitsCheck h o.arg0.toNat] s.failWith
    (.next (s.withResults (u32 h.channels) (u32 h.bitsPerPixel) (u32 h.bpp) (u32 (h.rowBytes o.arg0.toNat))).succeed)

/-- IMGLEN (R178). -/
def execImglen (s : State) : Host.Outcome State Fault Refusal :=
  let h := s.operands.hdr
  let ps := h.passRows
  conclude [imageCheck h, imageFitsCheck h] s.failWith
    (.next (s.withResults (u32 (filteredBytes ps)) (u32 (rawBytes ps)) (u32 (scanlines ps)) (u32 ps.length)).succeed)

/-- sample(row, k) at bit depth `d` (R176). -/
def sampleOf (d : Nat) (row : List Byte) (k : Nat) : Nat :=
  if d < 8 then
    let b := (byteAt row (k * d / 8)).toNat
    (b >>> (8 - d - k * d % 8)) % 2 ^ d
  else if d = 8 then (byteAt row k).toNat
  else (byteAt row (2 * k)).toNat * 256 + (byteAt row (2 * k + 1)).toNat

/-- The `n` samples of a packed row. -/
def unpackSamples (d n : Nat) (row : List Byte) : List Nat := (List.range n).map (sampleOf d row)

/-- A sample in its slot of `sw` bytes, high byte first (R175). -/
def sampleSlot (sw v : Nat) : List Byte :=
  if sw = 1 then [BitVec.ofNat 8 v] else [BitVec.ofNat 8 (v / 256), BitVec.ofNat 8 v]

/-- The unpacked layout of a sample sequence (R175). -/
def slotBytes (sw : Nat) (vs : List Nat) : List Byte := vs.flatMap (sampleSlot sw)

/-- The sample in slot `k` of an unpacked row (R180). -/
def slotSample (sw : Nat) (bs : List Byte) (k : Nat) : Nat :=
  if sw = 1 then (byteAt bs k).toNat else (byteAt bs (2 * k)).toNat * 256 + (byteAt bs (2 * k + 1)).toNat

/-- The `n` samples of an unpacked row. -/
def slotSamples (sw n : Nat) (bs : List Byte) : List Nat := (List.range n).map (slotSample sw bs)

/-- Byte `j` of a packed row of depth `d` < 8: the OR of its 8 / d samples, the first in the top bits; samples past
the end leave their bits 0 (R180: "encode must zero them"). -/
def packedByte (d : Nat) (vs : List Nat) (j : Nat) : Nat :=
  (List.range (8 / d)).foldl (fun acc i => acc ||| (vs.getD (j * (8 / d) + i) 0 <<< (8 - d - i * d))) 0

/-- The packed row of `rb` bytes of a sample sequence (R176, R180). -/
def packSamples (d rb : Nat) (vs : List Nat) : List Byte :=
  if d < 8 then (List.range rb).map (fun j => BitVec.ofNat 8 (packedByte d vs j))
  else if d = 8 then vs.map (fun v => BitVec.ofNat 8 v)
  else vs.flatMap (fun v => [BitVec.ofNat 8 (v / 256), BitVec.ofNat 8 v])

/-- UNPACK_ROW (R179). -/
def execUnpackRow (s : State) : Host.Outcome State Fault Refusal :=
  let o := s.operands
  let h := o.hdr
  let w := o.arg2.toNat
  let n := h.samples w
  let vs := unpackSamples h.bitDepth n (s.memRead o.arg0.toNat (h.rowBytes w))
  conclude ([fmtCheck h, rowFitsCheck h w] ++ rangeChecks .unpackRow o s) s.failWith
    (.next ((s.memWrite o.arg1.toNat (slotBytes h.sampleWidth vs)).withResults
      (u32 n) (u32 (n * h.sampleWidth)) 0 0).succeed)

/-- Step 9 of PACK_ROW: every sample below 2^d, in index order (R180). -/
def sampleChecks (d sw : Nat) (vs : List Nat) : List Check :=
  vs.zipIdx.map (fun x => ⟨decide (x.1 < 2 ^ d), ⟨.sampleRange, u32 (x.2 * sw), 0⟩⟩)

/-- PACK_ROW (R180). -/
def execPackRow (s : State) : Host.Outcome State Fault Refusal :=
  let o := s.operands
  let h := o.hdr
  let w := o.arg2.toNat
  let n := h.samples w
  let rb := h.rowBytes w
  let vs := slotSamples h.sampleWidth n (s.memRead o.arg0.toNat (n * h.sampleWidth))
  conclude
    ([fmtCheck h, rowFitsCheck h w] ++ rangeChecks .packRow o s ++ sampleChecks h.bitDepth h.sampleWidth vs) s.failWith
    (.next ((s.memWrite o.arg1.toNat (packSamples h.bitDepth rb vs)).withResults (u32 rb) (u32 n) 0 0).succeed)

end Sys2Proof.Machine
end

