-- ==== Sys2Proof/Machine/Filter.lean ====
section
/-!
DEFINITION. The filter engine (43_filter_engine.md): the predictors and the ten per-byte rules (R190-R203), the
selection policy (R204), the row and image commands (R206-R209), and the five filter-type bytes as the per-scanline
instructions of the image walk (30_encoding.md R92, 10_state.md R47).
-/

namespace Sys2Proof.Machine

/-! ### Predictors and rows (R190-R203) -/

/-- The byte `bpp` positions to the left in `row`, 0 before the first pixel (R190). -/
def leftByte (bpp : Nat) (row : List Byte) (i : Nat) : Byte := if bpp ≤ i then byteAt row (i - bpp) else 0

/-- PaethPredictor(a, b, c), in exact integers (R192). -/
def paethPredictor (a b c : Byte) : Byte :=
  let p : Int := (a.toNat : Int) + b.toNat - c.toNat
  let pa := (p - a.toNat).natAbs
  let pb := (p - b.toNat).natAbs
  let pc := (p - c.toNat).natAbs
  if pa ≤ pb ∧ pa ≤ pc then a
  else if pb ≤ pc then b
  else c

/-- floor((a + b) / 2), the sum not wrapped (R191, R193). -/
def averagePredictor (a b : Byte) : Byte := BitVec.ofNat 8 ((a.toNat + b.toNat) / 2)

/-- Pred(t, a, b, c) (R193). -/
def predictor (t : FilterType) (a b c : Byte) : Byte :=
  match t with
  | .none => 0
  | .sub => a
  | .up => b
  | .average => averagePredictor a b
  | .paeth => paethPredictor a b c

/-- Byte `i` of the predictor row, from the row's own bytes `cur` and the prior row (R190, R193). -/
def predictAt (t : FilterType) (bpp : Nat) (cur prior : List Byte) (i : Nat) : Byte :=
  predictor t (leftByte bpp cur i) (byteAt prior i) (leftByte bpp prior i)

/-- The first `n` reconstructed bytes of a row, in increasing order (R194-R198). -/
def reconBytes (t : FilterType) (bpp : Nat) (filt prior : List Byte) (n : Nat) : List Byte :=
  match n with
  | 0 => []
  | n + 1 =>
    let r := reconBytes t bpp filt prior n
    r ++ [byteAt filt n + predictAt t bpp r prior n]

/-- Unfilter(t, filt, prior) (R194-R198). -/
def unfilterBytes (t : FilterType) (bpp : Nat) (filt prior : List Byte) : List Byte :=
  reconBytes t bpp filt prior filt.length

/-- Filter(t, raw, prior) (R199-R203). -/
def filterBytes (t : FilterType) (bpp : Nat) (raw prior : List Byte) : List Byte :=
  (List.range raw.length).map (fun i => byteAt raw i - predictAt t bpp raw prior i)

/-! ### Selection (R204) -/

/-- score(f): the sum of the absolute values of the bytes read as signed (R204). -/
def filterScore (f : List Byte) : Nat := (f.map fun b => min b.toNat (256 - b.toNat)).sum

/-- The better of a type found so far and the next type: a tie keeps the lower (R204). -/
def betterType (bpp : Nat) (raw prior : List Byte) (best t : FilterType) : FilterType :=
  if filterScore (filterBytes t bpp raw prior) < filterScore (filterBytes best bpp raw prior) then t else best

/-- AUTO: the smallest score, ties to the lowest type (R204). -/
def autoType (bpp : Nat) (raw prior : List Byte) : FilterType :=
  [.sub, .up, .average, .paeth].foldl (betterType bpp raw prior) .none

/-- The type an FT field selects for a row: FT ≤ 4 is the type itself, 5 is AUTO (30_encoding.md R83). -/
def selectType (ft : BitVec 3) (bpp : Nat) (raw prior : List Byte) : FilterType :=
  (filterTypeOf (ft.setWidth 8)).getD (autoType bpp raw prior)

/-- A filtered scanline: the type byte, then the filtered bytes (R207). -/
def filteredRow (t : FilterType) (bpp : Nat) (raw prior : List Byte) : List Byte :=
  t.code :: filterBytes t bpp raw prior

/-- The filter type of a scanline's type byte; the command has checked that it is one (R205). -/
def typeOfByte (b : Byte) : FilterType := (filterTypeOf b).getD .none

/-! ### Row commands (R206, R207) -/

/-- The prior row a row command names: ARG2, or the zero row with ZP (R206). -/
def State.priorRow (s : State) (o : OperandRegs) (zp : Bool) (rb : Nat) : List Byte :=
  if zp then zeros rb else s.memRead o.arg2.toNat rb

/-- Step 5 of the row filter commands (R206, R207). -/
def filteredRowFitsCheck (h : Header) (w : Nat) : Check := ⟨h.filteredRowFits w, raise .overflow⟩

/-- A type byte at offset `off` of the source selects one of the five types (R205). -/
def typeByteCheck (b : Byte) (off : Nat) : Check := ⟨(filterTypeOf b).isSome, ⟨.filterType, u32 off, 0⟩⟩

/-- UNFILTER_ROW (R206). -/
def execUnfilterRow (zp : Bool) (s : State) : Host.Outcome State Fault Refusal :=
  let o := s.operands
  let h := o.hdr
  let w := o.arg3.toNat
  let rb := h.rowBytes w
  let b := s.readByte o.arg0.toNat
  let recon := unfilterBytes (typeOfByte b) h.bpp (s.memRead (o.arg0.toNat + 1) rb) (s.priorRow o zp rb)
  conclude
    ([fmtCheck h, filteredRowFitsCheck h w] ++ rangeChecks (.unfilterRow zp) o s ++ [typeByteCheck b 0]) s.failWith
    (.next ((s.memWrite o.arg1.toNat recon).withResults (b.setWidth 32) (u32 rb) 0 0).succeed)

/-- Step 1 for the FT field: FT 6 and 7 are illegal (30_encoding.md R82, R83). -/
def ftCheck (ft : BitVec 3) : Check := ⟨ftLegal ft, raise .illegalCmd⟩

/-- RES1 of FILTER_ROW holds the score: "a result that does not fit raises E_OVERFLOW" (00_scope.md R9). The score is known
only when the row has been read, so this is the last check (log 20). -/
def scoreFitsCheck (f : List Byte) : Check := ⟨decide (filterScore f ≤ u32Max), raise .overflow⟩

/-- FILTER_ROW (R207). -/
def execFilterRow (ft : BitVec 3) (zp : Bool) (s : State) : Host.Outcome State Fault Refusal :=
  let o := s.operands
  let h := o.hdr
  let w := o.arg3.toNat
  let rb := h.rowBytes w
  let raw := s.memRead o.arg0.toNat rb
  let prior := s.priorRow o zp rb
  let t := selectType ft h.bpp raw prior
  let f := filterBytes t h.bpp raw prior
  conclude
    ([ftCheck ft, fmtCheck h, filteredRowFitsCheck h w] ++ rangeChecks (.filterRow ft zp) o s ++ [scoreFitsCheck f]) s.failWith
    (.next ((s.memWrite o.arg1.toNat (filteredRow t h.bpp raw prior)).withResults
      (t.code.setWidth 32) (u32 (filterScore f)) (u32 (1 + rb)) 0).succeed)

/-! ### Image commands (R208, R209) -/

/-- The reconstructed rows of one pass: `n` scanlines of `rb` bytes from the front of `stream` (R208). -/
def unfilterPass (bpp rb n : Nat) (prior stream : List Byte) : List Byte :=
  match n with
  | 0 => []
  | n + 1 =>
    let recon := unfilterBytes (typeOfByte (byteAt stream 0)) bpp ((stream.drop 1).take rb) prior
    recon ++ unfilterPass bpp rb n recon (stream.drop (1 + rb))

/-- The raw row image of a filtered image stream; the prior row is the zero row at the start of each pass (R208). -/
def unfilterStream (bpp : Nat) (ps : List (Nat × Nat)) (stream : List Byte) : List Byte :=
  match ps with
  | [] => []
  | (rb, n) :: ps =>
    unfilterPass bpp rb n (zeros rb) stream ++ unfilterStream bpp ps (stream.drop (n * (1 + rb)))

/-- The filtered scanlines of one pass: `n` rows of `rb` bytes from the front of `image` (R209). -/
def filterPass (ft : BitVec 3) (bpp rb n : Nat) (prior image : List Byte) : List Byte :=
  match n with
  | 0 => []
  | n + 1 =>
    let raw := image.take rb
    filteredRow (selectType ft bpp raw prior) bpp raw prior ++ filterPass ft bpp rb n raw (image.drop rb)

/-- The filtered image stream of a raw row image (R209). -/
def filterStream (ft : BitVec 3) (bpp : Nat) (ps : List (Nat × Nat)) (image : List Byte) : List Byte :=
  match ps with
  | [] => []
  | (rb, n) :: ps => filterPass ft bpp rb n (zeros rb) image ++ filterStream ft bpp ps (image.drop (n * rb))

/-- The offsets of the type bytes of a filtered image stream, in stream order (R208). -/
def typeOffsets (ps : List (Nat × Nat)) (so : Nat) : List Nat :=
  match ps with
  | [] => []
  | (rb, n) :: ps => (List.range n).map (fun y => so + y * (1 + rb)) ++ typeOffsets ps (so + n * (1 + rb))

/-- Step 6 of the image commands: the declared length is the one the header implies (R208, R209). -/
def dataLengthCheck (len want : Nat) : Check := ⟨len == want, ⟨.dataLength, u32 (min len want), 0⟩⟩

/-- The checks of UNFILTER_IMAGE (R208). -/
def unfilterImageChecks (o : OperandRegs) (s : State) : List Check :=
  let ps := o.hdr.passRows
  [imageCheck o.hdr, imageFitsCheck o.hdr, dataLengthCheck o.arg2.toNat (filteredBytes ps)]
    ++ rangeChecks .unfilterImage o s
    ++ (typeOffsets ps 0).map (fun so => typeByteCheck (s.readByte (o.arg0.toNat + so)) so)

/-- RES0 and RES1 of UNFILTER_IMAGE: the bytes written and the scanlines (R208). -/
def State.unfilterResults (s : State) (o : OperandRegs) : State :=
  s.withResults (u32 (rawBytes o.hdr.passRows)) (u32 (scanlines o.hdr.passRows)) 0 0

/-- UNFILTER_IMAGE (R208). -/
def execUnfilterImage (s : State) : Host.Outcome State Fault Refusal :=
  let o := s.operands
  let ps := o.hdr.passRows
  let rows := unfilterStream o.hdr.bpp ps (s.memRead o.arg0.toNat (filteredBytes ps))
  conclude (unfilterImageChecks o s) s.failWith (.next ((s.memWrite o.arg1.toNat rows).unfilterResults o).succeed)

/-- The checks of FILTER_IMAGE (R209). -/
def filterImageChecks (ft : BitVec 3) (o : OperandRegs) (s : State) : List Check :=
  let ps := o.hdr.passRows
  [ftCheck ft, imageCheck o.hdr, imageFitsCheck o.hdr, dataLengthCheck o.arg2.toNat (rawBytes ps)]
    ++ rangeChecks (.filterImage ft) o s

/-- RES0 and RES1 of FILTER_IMAGE: the bytes written and the scanlines (R209). -/
def State.filterResults (s : State) (o : OperandRegs) : State :=
  s.withResults (u32 (filteredBytes o.hdr.passRows)) (u32 (scanlines o.hdr.passRows)) 0 0

/-- FILTER_IMAGE (R209). -/
def execFilterImage (ft : BitVec 3) (s : State) : Host.Outcome State Fault Refusal :=
  let o := s.operands
  let ps := o.hdr.passRows
  let stream := filterStream ft o.hdr.bpp ps (s.memRead o.arg0.toNat (rawBytes ps))
  conclude (filterImageChecks ft o s) s.failWith (.next ((s.memWrite o.arg1.toNat stream).filterResults o).succeed)

/-! ### The image walk by scanlines (R117, 10_state.md R47, 70_reset_and_hazards.md R280; log 7, log 8) -/

/-- The walk of an image command before its first scanline; none if there is no scanline. -/
def firstRow (kind : WalkKind) (o : OperandRegs) : Option RowWalk :=
  match o.hdr.passRows with
  | [] => none
  | (rb, n) :: rest => some ⟨kind, o.hdr.bpp, o.arg0.toNat, o.arg1.toNat, rb, n, zeros rb, rest⟩

/-- An image command that goes by scanlines: the checks, then the row context with the zero row. Every other
command, and an image command without a scanline, runs whole. -/
def beginWalk (checks : List Check) (kind : WalkKind) (whole : Host.Outcome State Fault Refusal) (s : State) :
    Host.Outcome State Fault Refusal :=
  match firstRow kind s.operands with
  | some w => conclude checks s.failWith (.next { s with row := some w })
  | none => whole

/-- The walk after a scanline that took `used` source bytes, wrote `made` bytes and leaves `row` as the prior row:
the next scanline of the pass, or the first of the next contributing pass with the zero row (R47, R208). -/
def RowWalk.advance (w : RowWalk) (used made : Nat) (row : List Byte) : Option RowWalk :=
  let src := w.src + used
  let dst := w.dst + made
  if 1 < w.left then some { w with src := src, dst := dst, left := w.left - 1, prior := row }
  else
    match w.rest with
    | [] => none
    | (rb, n) :: rest =>
      some { w with src := src, dst := dst, rb := rb, left := n, prior := zeros rb, rest := rest }

/-- The results an image command reports at the end of its walk (R208, R209). -/
def State.walkResults (s : State) (kind : WalkKind) : State :=
  match kind with
  | .unfilter => s.unfilterResults s.operands
  | .filter _ => s.filterResults s.operands

/-- After a scanline: the walk goes on, or the command completes. -/
def State.afterRow (s : State) (kind : WalkKind) (next : Option RowWalk) : State :=
  match next with
  | some w => { s with row := some w }
  | none => (s.walkResults kind).succeed

/-- What a filter-type byte does to the scanline in progress: in UNFILTER_IMAGE it reconstructs the scanline's bytes
(R194-R198), in FILTER_IMAGE it filters them behind the type byte (R199-R203). The command's step 7 has checked the
ranges; in a state that no run reaches, a scanline outside the memory raises E_BOUNDS (20_memory.md R63, log 13). -/
def filterScanline (t : FilterType) (s : State) : Host.Outcome State Fault Refusal :=
  match s.row with
  | none => .fault .noScanline
  | some w =>
    match w.kind with
    | .unfilter =>
      if (Range.mk w.src (1 + w.rb)).inBounds s.memSize && (Range.mk w.dst w.rb).inBounds s.memSize then
        let recon := unfilterBytes t w.bpp (s.memRead (w.src + 1) w.rb) w.prior
        .next ((s.memWrite w.dst recon).afterRow w.kind (w.advance (1 + w.rb) w.rb recon))
      else .next (s.failWith (raise .bounds))
    | .filter _ =>
      if (Range.mk w.src w.rb).inBounds s.memSize && (Range.mk w.dst (1 + w.rb)).inBounds s.memSize then
        let raw := s.memRead w.src w.rb
        .next ((s.memWrite w.dst (filteredRow t w.bpp raw w.prior)).afterRow w.kind (w.advance w.rb (1 + w.rb) raw))
      else .next (s.failWith (raise .bounds))

/-- Filter-type byte 0, None (R194, R199). -/
def execFilterTypeNone (s : State) : Host.Outcome State Fault Refusal := filterScanline .none s

/-- Filter-type byte 1, Sub (R195, R200). -/
def execFilterTypeSub (s : State) : Host.Outcome State Fault Refusal := filterScanline .sub s

/-- Filter-type byte 2, Up (R196, R201). -/
def execFilterTypeUp (s : State) : Host.Outcome State Fault Refusal := filterScanline .up s

/-- Filter-type byte 3, Average (R197, R202). -/
def execFilterTypeAverage (s : State) : Host.Outcome State Fault Refusal := filterScanline .average s

/-- Filter-type byte 4, Paeth (R198, R203). -/
def execFilterTypePaeth (s : State) : Host.Outcome State Fault Refusal := filterScanline .paeth s

end Sys2Proof.Machine
end

