-- ==== Sys2Proof/Machine/Dispatch.lean ====
section
/-!
DEFINITION. The meaning of every instruction, one arm per constructor.
-/

namespace Sys2Proof.Machine

/-- What an instruction does on the latched operands (40_command_issue.md R111-R114). -/
def exec (i : Instr) (s : State) : Host.Outcome State Fault Refusal :=
  match i with
  | .nop => Sys2Proof.Machine.execNop s
  | .unfilterRow zp => Sys2Proof.Machine.execUnfilterRow zp s
  | .filterRow ft zp => Sys2Proof.Machine.execFilterRow ft zp s
  | .unfilterImage => Sys2Proof.Machine.execUnfilterImage s
  | .filterImage ft => Sys2Proof.Machine.execFilterImage ft s
  | .geom => Sys2Proof.Machine.execGeom s
  | .imglen => Sys2Proof.Machine.execImglen s
  | .unpackRow => Sys2Proof.Machine.execUnpackRow s
  | .packRow => Sys2Proof.Machine.execPackRow s
  | .a7Dims => Sys2Proof.Machine.execA7Dims s
  | .a7Map => Sys2Proof.Machine.execA7Map s
  | .a7Inv => Sys2Proof.Machine.execA7Inv s
  | .crcUpdate ci cf => Sys2Proof.Machine.execCrcUpdate ci cf s
  | .frStart => Sys2Proof.Machine.execFrStart s
  | .frNext => Sys2Proof.Machine.execFrNext s
  | .frFinish => Sys2Proof.Machine.execFrFinish s
  | .emStart => Sys2Proof.Machine.execEmStart s
  | .emChunk => Sys2Proof.Machine.execEmChunk s
  | .emIhdr => Sys2Proof.Machine.execEmIhdr s
  | .emIdat => Sys2Proof.Machine.execEmIdat s
  | .emIend => Sys2Proof.Machine.execEmIend s
  | .filterTypeNone => Sys2Proof.Machine.execFilterTypeNone s
  | .filterTypeSub => Sys2Proof.Machine.execFilterTypeSub s
  | .filterTypeUp => Sys2Proof.Machine.execFilterTypeUp s
  | .filterTypeAverage => Sys2Proof.Machine.execFilterTypeAverage s
  | .filterTypePaeth => Sys2Proof.Machine.execFilterTypePaeth s

end Sys2Proof.Machine
end

