-- ==== Sys2Proof/Machine/HostPort.lean ====
section
/-!
DEFINITION. What the host does: register writes and reads (10_state.md R20-R45, 20_memory.md R69), buffer bytes and
races (20_memory.md R73), soft reset (70_reset_and_hazards.md R271), and the host programs' pseudo-instructions
(30_encoding.md R88, R89).
-/

namespace Sys2Proof.Machine

/-- The registers (10_state.md R20). -/
inductive Reg where
  | id | cmd | status | ctrl
  | arg0 | arg1 | arg2 | arg3
  | res0 | res1 | res2 | res3
  | errOffset | errChunk | crc | idatMax
  | hdrWidth | hdrHeight | hdrFmt | hdrIl
  | frState | frBase | frCursor | frLimit
  | emState | emBase | emCursor | emLimit
  deriving DecidableEq, Repr

/-- The registers in the order of their offsets 0x00, 0x04, …, 0x6C (R20). -/
def Reg.map : List Reg :=
  [.id, .cmd, .status, .ctrl, .arg0, .arg1, .arg2, .arg3, .res0, .res1, .res2, .res3, .errOffset, .errChunk]
    ++ [.crc, .idatMax, .hdrWidth, .hdrHeight, .hdrFmt, .hdrIl, .frState, .frBase, .frCursor, .frLimit]
    ++ [.emState, .emBase, .emCursor, .emLimit]

/-- The register at a word-aligned offset, none at a reserved one (R20: 0x70-0xFC). -/
def regAt (offset : BitVec 8) : Option Reg := Reg.map[offset.toNat / 4]?

/-- An aligned 32-bit access (R69). -/
def accessAligned (offset : BitVec 8) (width : AccessWidth) : Bool := width == .word && offset.toNat % 4 == 0

/-- The value a register holds (R20-R43). -/
def State.readReg (s : State) (r : Reg) : Word :=
  match r with
  | .id => idWord
  | .cmd => s.cmd
  | .status => s.statusWord
  | .ctrl => s.ctrlWord
  | .arg0 => s.regs.arg0
  | .arg1 => s.regs.arg1
  | .arg2 => s.regs.arg2
  | .arg3 => s.regs.arg3
  | .res0 => s.res0
  | .res1 => s.res1
  | .res2 => s.res2
  | .res3 => s.res3
  | .errOffset => s.errOffset
  | .errChunk => s.errChunk
  | .crc => s.regs.crc
  | .idatMax => s.regs.idatMax
  | .hdrWidth => s.regs.hdr.width
  | .hdrHeight => s.regs.hdr.height
  | .hdrFmt => s.regs.hdr.fmt
  | .hdrIl => s.regs.hdr.ilWord
  | .frState => s.regs.fr.toWord
  | .frBase => s.regs.frBase
  | .frCursor => s.regs.frCursor
  | .frLimit => s.regs.frLimit
  | .emState => s.regs.em.toWord
  | .emBase => s.regs.emBase
  | .emCursor => s.regs.emCursor
  | .emLimit => s.regs.emLimit

/-- The registers whose read is unspecified while BUSY = 1 (R45). -/
def Reg.unspecifiedWhileBusy (r : Reg) : Bool :=
  match r with
  | .res0 | .res1 | .res2 | .res3 | .errOffset | .errChunk | .crc => true
  | .frState | .frBase | .frCursor | .frLimit | .emState | .emBase | .emCursor | .emLimit => true
  | .id | .cmd | .status | .ctrl | .arg0 | .arg1 | .arg2 | .arg3 | .idatMax => false
  | .hdrWidth | .hdrHeight | .hdrFmt | .hdrIl => false

/-- The registers whose write is dropped with LOST while BUSY = 1 (R44). -/
def Reg.lockedWhileBusy (r : Reg) : Bool :=
  match r with
  | .cmd | .arg0 | .arg1 | .arg2 | .arg3 | .crc | .idatMax | .hdrWidth | .hdrHeight | .hdrFmt | .hdrIl => true
  | .id | .status | .ctrl | .res0 | .res1 | .res2 | .res3 | .errOffset | .errChunk => false
  | .frState | .frBase | .frCursor | .frLimit | .emState | .emBase | .emCursor | .emLimit => false

/-! ### The running command's ranges (20_memory.md R64, R73) -/

/-- The read set of the running command; none for an illegal word (log 11). -/
def State.runningReads (s : State) : List Range :=
  match s.phase with
  | .busy l =>
    match decodeCommand l.word with
    | .ok i => readSet i l.regs s
    | .error _ => []
  | .idle => []

/-- The write set of the running command. -/
def State.runningWrites (s : State) : List Range :=
  match s.phase with
  | .busy l =>
    match decodeCommand l.word with
    | .ok i => writeSet i l.regs
    | .error _ => []
  | .idle => []

/-- The address lies in one of the ranges. -/
def inRanges (rs : List Range) (a : Nat) : Bool := rs.any (fun r => r.contains a)

/-! ### Soft reset and CTRL (R24, 70_reset_and_hazards.md R271) -/

/-- Soft reset: an abandoned command's write set takes any value, and every register returns to its reset value. -/
def State.softReset (s : State) : State := (s.scrambleAll s.runningWrites).resetRegisters

/-- A write to CTRL (R24). SRST acts alone; otherwise IRQ_EN is stored and CLR clears STATUS. -/
def State.writeCtrl (s : State) (v : Word) : State :=
  if v.getLsbD 2 then s.softReset
  else
    let t := { s with irqEn := v.getLsbD 0 }
    if v.getLsbD 1 then t.clearStatus else t

/-! ### Register access -/

/-- A register write while BUSY = 0; a write to CMD starts a command (R22), read-only registers ignore it (R20). -/
def State.writeReg (s : State) (r : Reg) (v : Word) : State :=
  match r with
  | .cmd => s.accept v
  | .ctrl => s.writeCtrl v
  | .arg0 => { s with regs := { s.regs with arg0 := v } }
  | .arg1 => { s with regs := { s.regs with arg1 := v } }
  | .arg2 => { s with regs := { s.regs with arg2 := v } }
  | .arg3 => { s with regs := { s.regs with arg3 := v } }
  | .crc => { s with regs := { s.regs with crc := v } }
  | .idatMax => { s with regs := { s.regs with idatMax := v } }
  | .hdrWidth => { s with regs := { s.regs with hdr := { s.regs.hdr with width := v } } }
  | .hdrHeight => { s with regs := { s.regs with hdr := { s.regs.hdr with height := v } } }
  | .hdrFmt => { s with regs := { s.regs with hdr := { s.regs.hdr with fmt := v } } }
  | .hdrIl => { s with regs := { s.regs with hdr := { s.regs.hdr with il := v.setWidth 8 } } }
  | .id | .status | .res0 | .res1 | .res2 | .res3 | .errOffset | .errChunk => s
  | .frState | .frBase | .frCursor | .frLimit | .emState | .emBase | .emCursor | .emLimit => s

/-- A host register write (R20, R44, R69). -/
def State.hostRegWrite (s : State) (offset : BitVec 8) (width : AccessWidth) (v : Word) :
    Host.Outcome State Fault Refusal :=
  if accessAligned offset width then
    match regAt offset with
    | none => .next s
    | some r => .next (if s.busy && r.lockedWhileBusy then s.setLost else s.writeReg r v)
  else .refused .registerAccessShape

/-- What the host's read returned (log 5). -/
def State.answerHost (s : State) (v : Word) : State := { s with hostData := v }

/-- A read that returns any value (R45, R73; log 6). -/
def State.answerFree (s : State) : State := { s.answerHost (Config.freeWord s.free) with free := s.free + 1 }

/-- A host register read (R20, R45, R69). -/
def State.hostRegRead (s : State) (offset : BitVec 8) (width : AccessWidth) : Host.Outcome State Fault Refusal :=
  if accessAligned offset width then
    match regAt offset with
    | none => .next (s.answerHost 0)
    | some r => .next (if s.busy && r.unspecifiedWhileBusy then s.answerFree else s.answerHost (s.readReg r))
  else .refused .registerAccessShape

/-! ### Buffer access (20_memory.md R60, R73) -/

/-- A host write of one buffer byte. In the running command's read set or write set it makes the command's outcome
unspecified. -/
def State.hostMemWrite (s : State) (addr : Word) (b : Byte) : Host.Outcome State Fault Refusal :=
  if addr.toNat < s.memSize then
    .next { s.memWrite addr.toNat [b] with raced := s.raced || inRanges (s.runningReads ++ s.runningWrites) addr.toNat }
  else .fault .noSuchByte

/-- A free byte as the host reads it. -/
def State.answerFreeByte (s : State) : State :=
  { s.answerHost ((Config.freeByte s.free).setWidth 32) with free := s.free + 1 }

/-- A host read of one buffer byte. In the running command's write set it returns any value. -/
def State.hostMemRead (s : State) (addr : Word) : Host.Outcome State Fault Refusal :=
  if addr.toNat < s.memSize then
    .next (if inRanges s.runningWrites addr.toNat then s.answerFreeByte
      else s.answerHost ((s.readByte addr.toNat).setWidth 32))
  else .fault .noSuchByte

/-- The host samples IRQ (60_exceptions.md R250). -/
def State.hostIrqSample (s : State) : State := s.answerHost (u32 (bitAt s.irq 0))

/-- One host operation. -/
def State.hostMove (s : State) (op : HostOp) : Host.Outcome State Fault Refusal :=
  match op with
  | .regWrite offset width v => s.hostRegWrite offset width v
  | .regRead offset width => s.hostRegRead offset width
  | .memWrite addr b => s.hostMemWrite addr b
  | .memRead addr => s.hostMemRead addr
  | .irqSample => .next s.hostIrqSample
  | .powerOn => .next s.powerOn

/-! ### A raced command (20_memory.md R73; log 10) -/

/-- The registers that R73 leaves unspecified, from free values on. -/
def OperandRegs.scrambled (r : OperandRegs) (k : Nat) : OperandRegs :=
  { r with
    crc := Config.freeWord k
    fr := .ofWord (Config.freeWord (k + 1))
    frBase := Config.freeWord (k + 2)
    frCursor := Config.freeWord (k + 3)
    frLimit := Config.freeWord (k + 4)
    em := .ofWord (Config.freeWord (k + 5))
    emBase := Config.freeWord (k + 6)
    emCursor := Config.freeWord (k + 7)
    emLimit := Config.freeWord (k + 8)
    hdr := ⟨Config.freeWord (k + 9), Config.freeWord (k + 10), Config.freeWord (k + 11), Config.freeByte (k + 12)⟩ }

/-- Any error code of R240. -/
def anyErrCode (v : Word) : ErrCode := ErrCode.all.getD (v.toNat % 26) .illegalCmd

/-- The completion of a raced command: its write set, its results and its status take any value. -/
def State.racedCompletion (s : State) : State :=
  let m := s.scrambleAll s.runningWrites
  let k := m.free
  let ok := (Config.freeWord (k + 19)).getLsbD 0
  { m.toIdle with
    regs := m.regs.scrambled k
    res0 := Config.freeWord (k + 13)
    res1 := Config.freeWord (k + 14)
    res2 := Config.freeWord (k + 15)
    res3 := Config.freeWord (k + 16)
    errOffset := Config.freeWord (k + 17)
    errChunk := Config.freeWord (k + 18)
    status :=
      { m.status with
        done := ok
        err := !ok
        errCode := if ok then 0 else (anyErrCode (Config.freeWord (k + 20))).code }
    free := k + 21 }

/-! ### Host programs (30_encoding.md R88, R89) -/

/-- The offset of a register (R20). -/
def Reg.offset (r : Reg) : BitVec 8 := BitVec.ofNat 8 (4 * Reg.map.idxOf r)

/-- `W REG, v`. -/
def asmWrite (r : Reg) (v : Word) : Event := .host (.regWrite r.offset .word v)

/-- `R REG`. -/
def asmRead (r : Reg) : Event := .host (.regRead r.offset .word)

/-- `CMD MNEMONIC [flags]`: the command word is written to CMD; a filter-type byte is no command. -/
def asmCmd (i : Instr) : List Event :=
  match encode i with
  | .command w => [asmWrite .cmd w]
  | .filterByte _ => []

/-- `WAIT`: the engine completes, and the host reads STATUS (log 3). -/
def asmWait : List Event := [.engine, asmRead .status]

/-- `MB addr, b0 b1 ...`. Addresses are u32; past 2^32 − 1 the byte goes to address 0 and up (log 22). -/
def asmBytes (addr : Word) (bs : List Byte) : List Event :=
  bs.zipIdx.map (fun x => .host (.memWrite (addr + u32 x.2) x.1))

/-- `MR addr, n`. Addresses are u32; past 2^32 − 1 the byte read is that of address 0 and up (log 22). -/
def asmReadBytes (addr : Word) (n : Nat) : List Event :=
  (List.range n).map (fun k => .host (.memRead (addr + u32 k)))

/-- The ARG registers in order. -/
def argRegs : List Reg := [.arg0, .arg1, .arg2, .arg3]

/-- `RUN MNEMONIC [flags] (a0, a1, a2, a3)`: only the arguments given are written. -/
def asmRun (i : Instr) (args : List Word) : List Event :=
  (argRegs.zip args).map (fun x => asmWrite x.1 x.2) ++ asmCmd i ++ asmWait

/-- `CRC32 src, len`. -/
def asmCrc32 (src len : Word) : List Event := asmRun (.crcUpdate true true) [src, len]

/-- `UNFILTER_FIRST src, dst, w`. -/
def asmUnfilterFirst (src dst w : Word) : List Event := asmRun (.unfilterRow true) [src, dst, 0, w]

/-- `FILTER_AUTO src, dst, prior, w`. -/
def asmFilterAuto (src dst prior w : Word) : List Event := asmRun (.filterRow 5 false) [src, dst, prior, w]

/-- `HDR w, h, depth, ctype, il`. -/
def asmHdr (w h depth ctype il : Word) : List Event :=
  [asmWrite .hdrWidth w, asmWrite .hdrHeight h, asmWrite .hdrFmt (depth + ctype * 0x100), asmWrite .hdrIl il]

end Sys2Proof.Machine
end

