-- ==== Sys2Proof/Machine/Engine.lean ====
section
/-!
DEFINITION. The engine's move (40_command_issue.md R112-R115): it decodes the latched word, or the next scanline's
filter-type byte, and runs what it stands for. An image command may also go by scanlines (70_reset_and_hazards.md
R280, log 7).
-/

namespace Sys2Proof.Machine

/-- The next scanline of a walk. UNFILTER_IMAGE fetches the filter-type byte from the filtered stream and FILTER_IMAGE
selects it (30_encoding.md R83, R92, R101; 43_filter_engine.md R205, R208, R209). -/
def State.scanlineMove (s : State) (w : RowWalk) : Host.Outcome State Fault Refusal :=
  match w.kind with
  | .unfilter =>
    match decodeFilterByte (s.readByte w.src) with
    | .ok i => exec i s
    | .error _ => .next (s.failWith ⟨.filterType, u32 (w.src - s.operands.arg0.toNat), 0⟩)
  | .filter ft => exec (filterInstr (selectType ft w.bpp (s.memRead w.src w.rb) w.prior)) s

/-- A command that goes by scanlines: an image command begins its walk, every other command runs whole. -/
def beginByRows (i : Instr) (s : State) : Host.Outcome State Fault Refusal :=
  match i with
  | .unfilterImage => beginWalk (unfilterImageChecks s.operands s) .unfilter (exec i s) s
  | .filterImage ft => beginWalk (filterImageChecks ft s.operands s) (.filter ft) (exec i s) s
  | _ => exec i s

/-- The engine's move while BUSY = 1; while idle it does nothing (60_exceptions.md R257). -/
def State.engineMove (s : State) (byRows : Bool) : Host.Outcome State Fault Refusal :=
  match s.phase with
  | .idle => .next s
  | .busy l =>
    if s.raced then .next s.racedCompletion
    else
      match s.row with
      | some w => s.scanlineMove w
      | none =>
        match decodeCommand l.word with
        | .error _ => .next (s.failWith (raise .illegalCmd))
        | .ok i => if byRows then beginByRows i s else exec i s

/-- The machine with the first `e` of the agenda taken off. -/
def State.dropEvent (s : State) : State := { s with agenda := s.agenda.tail }

/-- A state in which the next step is the engine's, on the command word `w` just accepted. -/
def State.acceptNow (s : State) (w : Word) : State :=
  let t := s.accept w
  { t with agenda := .engine :: t.agenda }

/-- UNFILTER_IMAGE's word (30_encoding.md R82). -/
def unfilterImageWord : Word := commandWord 0x03 0 false false false

/-- A state in which the next step is the engine's, on the scanline at buffer address 0 of a walk of UNFILTER_IMAGE:
one scanline of no pixel, whose filter-type byte is `b` (log 4). -/
def State.scanlineNow (s : State) (b : Byte) : State :=
  let t := s.acceptNow unfilterImageWord
  { t.memWrite 0 [b] with row := some ⟨.unfilter, 1, 0, t.regs.arg1.toNat, 0, 1, [], []⟩ }

end Sys2Proof.Machine
end

