-- ==== Sys2Proof/Machine/Step.lean ====
section
/-!
DEFINITION. One step: the first event of the agenda says who moves, and when there is none the engine moves (log 3).
-/

namespace Sys2Proof.Machine

/-- One step of PNG-SE and its host. -/
def step (s : State) : Host.Outcome State Fault Refusal :=
  match s.agenda with
  | [] => s.engineMove false
  | .engine :: _ => s.dropEvent.engineMove false
  | .engineRow :: _ => s.dropEvent.engineMove true
  | .host op :: _ => s.dropEvent.hostMove op

/-- `s` with the instruction `w` of `nbits` bits where the next step fetches: a command word is accepted, a filter-type
byte is the next scanline's (log 4). -/
def State.withFetchWord (s : State) (nbits w : Nat) : State :=
  if nbits = 8 then s.scanlineNow (BitVec.ofNat 8 w) else s.acceptNow (BitVec.ofNat 32 w)

end Sys2Proof.Machine
end

