-- ==== Sys2Proof/Safety.lean ====
section
/-!
DEFINITION. What a safe machine state is: the invariants the spec states of its registers (10_state.md R23, R38, R42,
R46, R47) and the form of the buffer memory (20_memory.md R60); and the terms in which the claims speak: the state a
completed command leaves, ranges, the register map, the acceptance of a chunk.
-/

namespace Sys2Proof.Machine

/-! ### Invariants -/

/-- The buffer memory is canonical and every listed address exists; MEM_SIZE is in its range (00_scope.md R8). -/
abbrev State.MemInv (s : State) : Prop :=
  Memory.wf s.mem ∧ (∀ c ∈ s.mem, c.1 < s.memSize) ∧ 1 ≤ s.memSize ∧ s.memSize ≤ 4294967296

/-- R23: at most one of BUSY, DONE and ERR is 1, and ERRCODE ≠ 0 exactly when ERR = 1. -/
abbrev State.StatusInv (s : State) : Prop :=
  ¬(s.busy = true ∧ s.status.done = true) ∧ ¬(s.busy = true ∧ s.status.err = true)
    ∧ ¬(s.status.done = true ∧ s.status.err = true) ∧ (s.status.errCode ≠ 0 ↔ s.status.err = true)

/-- R46: while BUSY, the snapshot equals the live registers and CMD is the latched word; R47, R73: while IDLE there is
no row context and no race. -/
def State.PhaseInv (s : State) : Prop :=
  match s.phase with
  | .busy l => l.regs = s.regs ∧ l.word = s.cmd
  | .idle => s.row = none ∧ s.raced = false

/-- The invariant that every step keeps. -/
def State.Inv (s : State) : Prop := s.MemInv ∧ s.StatusInv ∧ s.PhaseInv

/-- R38, R42 and the bounds FR_START and EM_START check: the parser's and the emitter's positions lie in their
streams, and the streams in the buffer memory. A raced command (20_memory.md R73) may break it (log 10). -/
abbrev State.StreamInv (s : State) : Prop :=
  (s.regs.fr.sigOk = true →
      s.regs.frBase.toNat + 8 ≤ s.regs.frCursor.toNat ∧ s.regs.frCursor.toNat ≤ s.regs.frLimit.toNat
        ∧ s.regs.frLimit.toNat ≤ s.memSize)
    ∧ (s.regs.em.started = true →
      s.regs.emBase.toNat + 8 ≤ s.regs.emCursor.toNat ∧ s.regs.emCursor.toNat ≤ s.regs.emLimit.toNat
        ∧ s.regs.emLimit.toNat ≤ s.memSize)

/-! ### Completion (40_command_issue.md R114) -/

/-- The state after a command that completed with success in state `s`, with memory `m`, operand registers `g` and
results `a`, `b`, `c`, `d`: DONE is set and the engine is idle, and every other field is that of `s`. -/
def State.completed (s : State) (m : Memory) (g : OperandRegs) (a b c d : Word) : State :=
  { s with
    mem := m
    regs := g
    res0 := a
    res1 := b
    res2 := c
    res3 := d
    status := { s.status with done := true }
    phase := .idle
    row := none
    raced := false }

/-- Every byte of the buffer memory reads in `t` as in `s`. -/
def SameBytes (s t : State) : Prop := ∀ a, t.readByte a = s.readByte a

/-- Every byte outside the range reads in `t` as in `s`. -/
def SameOutside (s t : State) (r : Range) : Prop :=
  ∀ a, a < r.start ∨ r.start + r.len ≤ a → t.readByte a = s.readByte a

/-! ### Ranges (20_memory.md R63-R65) -/

/-- InBounds (R63). -/
abbrev Range.Fits (r : Range) (size : Nat) : Prop := r.len = 0 ∨ r.start + r.len ≤ size

/-- The two ranges have no byte in common (R65). -/
abbrev Range.Apart (p q : Range) : Prop :=
  p.len = 0 ∨ q.len = 0 ∨ p.start + p.len ≤ q.start ∨ q.start + q.len ≤ p.start

/-- Every range of the command is in bounds. -/
abbrev RangesFit (i : Instr) (o : OperandRegs) (s : State) : Prop :=
  ∀ r ∈ readSet i o s ++ writeSet i o, r.Fits s.memSize

/-- No write range of the command meets a read range. -/
abbrev RangesApart (i : Instr) (o : OperandRegs) (s : State) : Prop :=
  ∀ w ∈ writeSet i o, ∀ r ∈ readSet i o s, r.Apart w

/-! ### Rows (43_filter_engine.md R190) -/

/-- The byte `bpp` positions to the left of position `i`, 0 before the first pixel. -/
def neighbour (bpp i : Nat) (row : Nat → Byte) : Byte := if bpp ≤ i then row (i - bpp) else 0

/-! ### Chunks (41_chunk_framer.md R133-R136) -/

/-- The chunk may come next: no check of Accept fails. -/
abbrev ChunkOrder.Accepts (c : ChunkOrder) (t : List Byte) (len : Nat) (p : List Byte) : Prop :=
  c.iendSeen = false
    ∧ (c.ihdrSeen = true ↔ t ≠ tIHDR)
    ∧ (t = tPLTE → c.plteSeen = false ∧ len ≠ 0 ∧ len % 3 = 0 ∧ len ≤ 768)
    ∧ (t = tIDAT → c.idat ≠ .closed)
    ∧ (t = tIEND → c.idat ≠ .noIdat ∧ len = 0)
    ∧ (t = tIHDR →
      len = 13 ∧ beValue (p.take 4) ≠ 0 ∧ beValue ((p.drop 4).take 4) ≠ 0
        ∧ colorTypeLegal (byteAt p 9).toNat = true ∧ depthLegal (byteAt p 9).toNat (byteAt p 8).toNat = true
        ∧ byteAt p 10 = 0 ∧ byteAt p 11 = 0 ∧ (byteAt p 12 = 0 ∨ byteAt p 12 = 1))

/-! ### The register map (10_state.md R20) -/

/-- What the register at an aligned offset holds; a reserved offset reads 0. -/
def State.registerAt (s : State) (offset : Nat) : Word :=
  match offset with
  | 0x00 => 0x504E4701
  | 0x04 => s.cmd
  | 0x08 => s.statusWord
  | 0x0C => s.ctrlWord
  | 0x10 => s.regs.arg0
  | 0x14 => s.regs.arg1
  | 0x18 => s.regs.arg2
  | 0x1C => s.regs.arg3
  | 0x20 => s.res0
  | 0x24 => s.res1
  | 0x28 => s.res2
  | 0x2C => s.res3
  | 0x30 => s.errOffset
  | 0x34 => s.errChunk
  | 0x38 => s.regs.crc
  | 0x3C => s.regs.idatMax
  | 0x40 => s.regs.hdr.width
  | 0x44 => s.regs.hdr.height
  | 0x48 => s.regs.hdr.fmt
  | 0x4C => s.regs.hdr.ilWord
  | 0x50 => s.regs.fr.toWord
  | 0x54 => s.regs.frBase
  | 0x58 => s.regs.frCursor
  | 0x5C => s.regs.frLimit
  | 0x60 => s.regs.em.toWord
  | 0x64 => s.regs.emBase
  | 0x68 => s.regs.emCursor
  | 0x6C => s.regs.emLimit
  | _ => 0

/-- The offsets whose write is dropped with LOST while BUSY = 1 (R44). -/
def lockedOffsets : List Nat := [0x04, 0x10, 0x14, 0x18, 0x1C, 0x38, 0x3C, 0x40, 0x44, 0x48, 0x4C]

/-- The offsets whose read is unspecified while BUSY = 1 (R45). -/
def unspecifiedOffsets : List Nat :=
  [0x20, 0x24, 0x28, 0x2C, 0x30, 0x34, 0x38, 0x50, 0x54, 0x58, 0x5C, 0x60, 0x64, 0x68, 0x6C]

/-! ### An image command by scanlines (70_reset_and_hazards.md R280) -/

/-- `n` engine moves in which an image command goes by scanlines. -/
def State.rowMoves (n : Nat) (s : State) : Host.Outcome State Fault Refusal :=
  match n with
  | 0 => .next s
  | n + 1 =>
    match s.engineMove true with
    | .next t => State.rowMoves n t
    | o => o

/-- How many engine moves a walk has left, its scanline in progress among them (R208, R209). -/
def RowWalk.movesLeft (w : RowWalk) : Nat := max 1 w.left + (w.rest.map fun p => max 1 p.2).sum

end Sys2Proof.Machine
end

