-- ==== Sys2Proof/Certificates/Slice0/Obligations.lean ====
section
/-!
DEFINITION. The statements for the provers. `l` is the latched command of a running command and `l.regs` its operands
(40_command_issue.md R111); `s.completed m g a b c d` is the state a success leaves (R114).
-/

open Sys2Proof Sys2Proof.Machine

/-! ### Encoding and decoding -/

/-- Decoding an encoded legal instruction gives it back, and whatever decodes is legal and is the one encoding of what
it decodes to: each word and byte has one meaning. -/
def Obligations.DecodeEncodeAgree : Prop :=
  (∀ i : Instr, i.wellFormed = true → decode (encode i) = .ok i)
    ∧ ∀ (e : Encoded) (i : Instr), decode e = .ok i → i.wellFormed = true ∧ encode i = e

/-- R82: the legal command words are exactly those of its table, and every other word raises E_ILLEGAL_CMD(0) as the
command's first check. -/
def Obligations.LegalWordsExactly : Prop :=
  ∀ w : Word,
    let legal :=
      w = 0x00000000#32 ∨ w = 0x00000001#32 ∨ w = 0x00000801#32 ∨ w = 0x00000003#32
        ∨ (∃ f x, f ≤ 5 ∧ x ≤ 1 ∧ w.toNat = 0x00000002 + f * 0x100 + x * 0x800)
        ∨ (∃ f, f ≤ 5 ∧ w.toNat = 0x00000004 + f * 0x100)
        ∨ (∃ x y, x ≤ 1 ∧ y ≤ 1 ∧ w.toNat = 0x00000018 + x * 0x1000 + y * 0x2000)
        ∨ w ∈ [0x08#32, 0x09#32, 0x0A#32, 0x0B#32, 0x10#32, 0x11#32, 0x12#32, 0x20#32, 0x21#32, 0x22#32, 0x28#32,
            0x29#32, 0x2A#32, 0x2B#32, 0x2C#32]
    ((∃ i, decodeCommand w = .ok i) ↔ legal)
      ∧ (¬legal → ∀ (s : State) (g : OperandRegs) (byRows : Bool), s.phase = .busy ⟨w, g⟩ → s.raced = false →
          s.row = none → s.engineMove byRows = .next (s.failWith ⟨.illegalCmd, 0, 0⟩))

/-- Words and bytes written out from the tables of R80-R83 and R92 decode to what they stand for. -/
def Obligations.WrittenWordsDecode : Prop :=
  decodeCommand 0b00000000000000000000000000000000#32 = .ok .nop
    ∧ decodeCommand 0b00000000000000000000100000000001#32 = .ok (.unfilterRow true)
    ∧ decodeCommand 0b00000000000000000000110100000010#32 = .ok (.filterRow 5 true)
    ∧ decodeCommand 0b00000000000000000000001000000100#32 = .ok (.filterImage 2)
    ∧ decodeCommand 0b00000000000000000000000000001010#32 = .ok .unpackRow
    ∧ decodeCommand 0b00000000000000000000000000010001#32 = .ok .a7Map
    ∧ decodeCommand 0b00000000000000000010000000011000#32 = .ok (.crcUpdate false true)
    ∧ decodeCommand 0b00000000000000000000000000100001#32 = .ok .frNext
    ∧ decodeCommand 0b00000000000000000000000000101011#32 = .ok .emIdat
    ∧ decodeFilterByte 0b00000011#8 = .ok .filterTypeAverage
    ∧ decodeFilterByte 0b00000101#8 = .error .reservedFilterType

/-! ### The step -/

/-- When the engine moves, the step is the meaning of the instruction that is decoded, after the event that let the
engine move is taken off: the latched word's command (by scanlines, every command but the two image commands does the
same), and during a scanline walk the scanline's filter-type byte, the one in the filtered stream when reconstructing
and the selected one when filtering. An empty agenda leaves the move to the engine. Who moves is the model's schedule (log 3), the walk its option (log 7). -/
def Obligations.StepRunsTheInstruction : Prop :=
  (∀ (s : State) (l : Latched) (i : Instr) (rest : List Event),
    s.phase = .busy l → s.raced = false → s.row = none → decodeCommand l.word = .ok i →
      (s.agenda = [] → step s = exec i s)
        ∧ (s.agenda = .engine :: rest → step s = exec i { s with agenda := rest })
        ∧ (s.agenda = .engineRow :: rest → i ≠ .unfilterImage → (∀ ft, i ≠ .filterImage ft) →
            step s = exec i { s with agenda := rest }))
    ∧ ∀ (s : State) (l : Latched) (w : RowWalk),
      s.phase = .busy l → s.raced = false → s.row = some w → (∀ op rest, s.agenda ≠ .host op :: rest) →
        let u := { s with agenda := s.agenda.tail }
        (∀ i, w.kind = .unfilter → decodeFilterByte (s.readByte w.src) = .ok i → step s = exec i u)
          ∧ (∀ (ft : BitVec 3) (t : FilterType), w.kind = .filter ft → t.code = ft.setWidth 8 →
              step s = exec (filterInstr t) u)
          ∧ (w.kind = .filter 5 →
              step s = exec (filterInstr (autoType w.bpp (s.memRead w.src w.rb) w.prior)) u)

/-! ### The host -/

/-- R110: the acceptance of a command word, and a write to CMD while BUSY = 1 is not accepted. -/
def Obligations.CommandWriteAccepts : Prop :=
  ∀ (s : State) (w : Word) (rest : List Event), s.agenda = .host (.regWrite 0x04 .word w) :: rest →
    (s.phase = .idle →
      step s = .next { s with
        agenda := rest
        cmd := w
        status := ⟨false, false, s.status.lost, 0⟩
        res0 := 0
        res1 := 0
        res2 := 0
        res3 := 0
        errOffset := 0
        errChunk := 0
        phase := .busy ⟨w, s.regs⟩
        row := none
        raced := false })
      ∧ (s.phase ≠ .idle → step s = .next { s with agenda := rest, status := { s.status with lost := true } })

/-- R44: while BUSY = 1, writes to the operand registers and CMD are dropped with LOST, writes to CTRL take effect, and
writes to RO and reserved offsets are ignored without LOST. -/
def Obligations.BusyWritesAreDropped : Prop :=
  ∀ (s : State) (l : Latched) (offset : BitVec 8) (v : Word) (rest : List Event),
    s.phase = .busy l → offset.toNat % 4 = 0 → s.agenda = .host (.regWrite offset .word v) :: rest →
      step s = .next
        (if offset.toNat ∈ lockedOffsets then { s with agenda := rest, status := { s.status with lost := true } }
        else if offset.toNat = 0x0C then State.writeCtrl { s with agenda := rest } v
        else { s with agenda := rest })

/-- While BUSY = 0, a write to a RW operand register stores every bit that is not reserved, and a write to a RO or
reserved offset is ignored (R20, R25, R30-R35). -/
def Obligations.IdleWritesStore : Prop :=
  ∀ (s : State) (offset : BitVec 8) (v : Word) (rest : List Event),
    s.phase = .idle → offset.toNat % 4 = 0 → s.agenda = .host (.regWrite offset .word v) :: rest →
    offset.toNat ≠ 0x04 → offset.toNat ≠ 0x0C →
      ∃ t, step s = .next t ∧ t = { s with agenda := rest, regs := t.regs }
        ∧ (offset.toNat ∉ lockedOffsets → t = { s with agenda := rest })
        ∧ (offset.toNat ∈ lockedOffsets →
            t.registerAt offset.toNat = (if offset.toNat = 0x4C then v &&& 0xFF else v)
              ∧ ∀ other, other ≠ offset.toNat → t.registerAt other = s.registerAt other)

/-- The register map: an aligned 32-bit read returns what the register at that offset holds (R20), except that while
BUSY = 1 a result, error, CRC, FR_* or EM_* register returns a value nothing constrains (R45; log 5, log 6). A read
changes no register. -/
def Obligations.RegisterReads : Prop :=
  ∀ (s : State) (offset : BitVec 8) (rest : List Event),
    offset.toNat % 4 = 0 → s.agenda = .host (.regRead offset .word) :: rest →
      step s = .next
        (if s.busy = true ∧ offset.toNat ∈ unspecifiedOffsets then
          { s with agenda := rest, hostData := Config.freeWord s.free, free := s.free + 1 }
        else { s with agenda := rest, hostData := s.registerAt offset.toNat })

/-- The fields of STATUS, CTRL, HDR_IL, FR_STATE and EM_STATE stand at their bits, IDAT_STATE as 0 NONE, 1 OPEN, 2 CLOSED,
and reserved bits read 0 (R23, R24, R35, R36, R40). -/
def Obligations.StatusFieldPlaces : Prop :=
  ∀ s : State,
    let idatState := fun i : IdatState =>
      match i with
      | .noIdat => 0
      | .isOpen => 1
      | .closed => 2
    (s.statusWord.getLsbD 0 = s.busy ∧ s.statusWord.getLsbD 1 = s.status.done
        ∧ s.statusWord.getLsbD 2 = s.status.err ∧ s.statusWord.getLsbD 3 = s.status.lost
        ∧ s.statusWord.extractLsb' 4 4 = 0 ∧ s.statusWord.extractLsb' 8 8 = s.status.errCode
        ∧ s.statusWord.extractLsb' 16 16 = 0)
      ∧ (s.ctrlWord.getLsbD 0 = s.irqEn ∧ s.ctrlWord.extractLsb' 1 31 = 0)
      ∧ (s.regs.hdr.ilWord.extractLsb' 0 8 = s.regs.hdr.il ∧ s.regs.hdr.ilWord.extractLsb' 8 24 = 0)
      ∧ (let f := s.regs.fr;
          f.toWord.getLsbD 0 = f.sigOk ∧ f.toWord.getLsbD 1 = f.order.ihdrSeen ∧ f.toWord.getLsbD 2 = f.order.plteSeen
            ∧ (f.toWord.extractLsb' 3 2).toNat = idatState f.order.idat ∧ f.toWord.getLsbD 5 = f.order.iendSeen
            ∧ f.toWord.getLsbD 6 = f.fail ∧ f.toWord.getLsbD 7 = f.done ∧ f.toWord.extractLsb' 8 24 = 0)
      ∧ (let e := s.regs.em;
          e.toWord.getLsbD 0 = e.started ∧ e.toWord.getLsbD 1 = e.order.ihdrSeen
            ∧ e.toWord.getLsbD 2 = e.order.plteSeen ∧ (e.toWord.extractLsb' 3 2).toNat = idatState e.order.idat
            ∧ e.toWord.getLsbD 5 = e.order.iendSeen ∧ e.toWord.extractLsb' 6 26 = 0)

/-- R69: a register access of another width or alignment than an aligned 32-bit access is refused. -/
def Obligations.OddAccessIsRefused : Prop :=
  ∀ (s : State) (offset : BitVec 8) (width : AccessWidth) (v : Word) (rest : List Event),
    width ≠ .word ∨ offset.toNat % 4 ≠ 0 →
      (s.agenda = .host (.regWrite offset width v) :: rest → step s = .refused .registerAccessShape)
        ∧ (s.agenda = .host (.regRead offset width) :: rest → step s = .refused .registerAccessShape)

/-- A write to CTRL with SRST = 0, idle or busy, stores IRQ_EN and, with CLR, clears DONE, ERR, LOST and ERRCODE and
nothing else (R24, R248). -/
def Obligations.ControlWrite : Prop :=
  ∀ (s : State) (v : Word) (rest : List Event),
    s.agenda = .host (.regWrite 0x0C .word v) :: rest → v.getLsbD 2 = false →
      step s = .next { s with
        agenda := rest
        irqEn := v.getLsbD 0
        status := if v.getLsbD 1 then ⟨false, false, false, 0⟩ else s.status }

/-- R271: a soft reset returns every register to its reset value and the phase to IDLE, whatever CLR says; every byte
of an abandoned command's write set is any value, and no other byte changes. The write set of an abandoned command that
would have failed its checks is the model's choice where R64 gives it no size (log 11). -/
def Obligations.SoftReset : Prop :=
  ∀ (s : State) (v : Word) (rest : List Event),
    s.agenda = .host (.regWrite 0x0C .word v) :: rest → v.getLsbD 2 = true →
      ∃ t, step s = .next t
        ∧ t = { State.reset with
            mem := t.mem, free := t.free, memSize := s.memSize, epoch := s.epoch, agenda := rest,
            hostData := s.hostData }
        ∧ (∀ a, inRanges s.runningWrites a = false → t.readByte a = s.readByte a)
        ∧ (∀ a, inRanges s.runningWrites a = true → a < s.memSize → ∃ k, t.readByte a = Config.freeByte k)
        ∧ (s.phase = .idle → t.mem = s.mem)

/-- R49: IRQ = CTRL.IRQ_EN AND (STATUS.DONE OR STATUS.ERR); it is what the host samples, and sampling changes
nothing. -/
def Obligations.InterruptLevel : Prop :=
  ∀ (s : State) (rest : List Event), s.agenda = .host .irqSample :: rest →
    step s = .next { s with
      agenda := rest
      hostData := if s.ctrlWord.getLsbD 0 && (s.statusWord.getLsbD 1 || s.statusWord.getLsbD 2) then 1 else 0 }

/-- R270: power-on leaves every register at the reset value of R20, the phase IDLE, IRQ = 0 and every buffer byte a
value nothing constrains (log 2); the model's first state is such a state. -/
def Obligations.PowerOnReset : Prop :=
  let isReset (t : State) : Prop :=
    (∀ offset, t.registerAt offset =
      if offset = 0x00 then 0x504E4701#32 else if offset = 0x38 then 0xFFFFFFFF#32
      else if offset = 0x3C then 0x00002000#32 else 0#32)
      ∧ t.phase = .idle ∧ t.row = none ∧ t.irq = false ∧ ∀ a, t.readByte a = Config.powerOnByte t.epoch a
  isReset State.reset
    ∧ ∀ (s : State) (rest : List Event), s.agenda = .host .powerOn :: rest →
        ∃ t, step s = .next t ∧ isReset t ∧ t.epoch = s.epoch + 1 ∧ t.memSize = s.memSize ∧ t.agenda = rest

/-- R73, R60: the host's port to the buffer memory. A write lands, and in the running command's read set or write set
it marks the command as raced; a read returns the byte, and in the running command's write set any value. An address
that does not exist stops the machine (log 12). The sets of a running command that will fail its checks are the model's
choice where R64 gives them no size (log 11). -/
def Obligations.HostByteAccess : Prop :=
  ∀ (s : State) (addr : Word) (b : Byte) (rest : List Event),
    (s.agenda = .host (.memWrite addr b) :: rest →
      if addr.toNat < s.memSize then
        ∃ t, step s = .next t
          ∧ t = { s with
              agenda := rest, mem := t.mem,
              raced := s.raced || inRanges (s.runningReads ++ s.runningWrites) addr.toNat }
          ∧ t.readByte addr.toNat = b ∧ ∀ a, a ≠ addr.toNat → t.readByte a = s.readByte a
      else step s = .fault .noSuchByte)
      ∧ (s.agenda = .host (.memRead addr) :: rest →
        if addr.toNat < s.memSize then
          step s = .next
            (if inRanges s.runningWrites addr.toNat = true then
              { s with agenda := rest, hostData := (Config.freeByte s.free).setWidth 32, free := s.free + 1 }
            else { s with agenda := rest, hostData := (s.readByte addr.toNat).setWidth 32 })
        else step s = .fault .noSuchByte)

/-- R73: the engine still completes a raced command, and no byte outside the write set and no register outside R73's
list changes; that it shows one of DONE and ERR with a code of R240 is the model's reading (log 10). The write set of a
command that would have failed its checks is the model's choice where R64 gives it no size (log 11). -/
def Obligations.RacedCommandCompletes : Prop :=
  ∀ (s : State) (l : Latched) (byRows : Bool), s.phase = .busy l → s.raced = true →
      ∃ t, s.engineMove byRows = .next t ∧ t.phase = .idle ∧ t.row = none
        ∧ (t.status.done ≠ t.status.err) ∧ (t.status.errCode = 0 ↔ t.status.done = true)
        ∧ (t.status.err = true → ∃ e : ErrCode, t.status.errCode = e.code)
        ∧ t.status.lost = s.status.lost ∧ t.cmd = s.cmd ∧ t.irqEn = s.irqEn
        ∧ t.regs.arg0 = s.regs.arg0 ∧ t.regs.arg1 = s.regs.arg1 ∧ t.regs.arg2 = s.regs.arg2
        ∧ t.regs.arg3 = s.regs.arg3 ∧ t.regs.idatMax = s.regs.idatMax
        ∧ ∀ a, inRanges s.runningWrites a = false → t.readByte a = s.readByte a

/-! ### What each command does when its checks hold -/

/-- R116: NOP has no effect beyond acceptance and completion. -/
def Obligations.NopCompletes : Prop :=
  ∀ (s : State) (l : Latched), s.phase = .busy l →
    exec .nop s = .next (s.completed s.mem s.regs s.res0 s.res1 s.res2 s.res3)

/-- R177, R93: GEOM reports the channels of the color type, bits per pixel, bpp and row bytes, and changes nothing else. -/
def Obligations.GeomReports : Prop :=
  ∀ (s : State) (l : Latched), s.phase = .busy l →
    let h := l.regs.hdr
    let w := l.regs.arg0.toNat
    let ch := [1, 0, 3, 1, 2, 0, 4].getD h.colorType 0
    let rb := (h.bitDepth * ch * w + 7) / 8
    h.fmtValid = true → 1 + rb ≤ 2 ^ 32 - 1 → w * ch * (if h.bitDepth ≤ 8 then 1 else 2) ≤ 2 ^ 32 - 1 →
      exec .geom s = .next (s.completed s.mem s.regs (BitVec.ofNat 32 ch) (BitVec.ofNat 32 (h.bitDepth * ch))
        (BitVec.ofNat 32 (max 1 ((h.bitDepth * ch + 7) / 8))) (BitVec.ofNat 32 rb))

/-- R178: IMGLEN reports S, Rw, N and Q as its sums over the contributing passes give them. -/
def Obligations.ImglenReports : Prop :=
  ∀ (s : State) (l : Latched), s.phase = .busy l →
    let h := l.regs.hdr
    let passes := if h.interlace = 0 then [0] else [1, 2, 3, 4, 5, 6, 7]
    let pw := fun p => (passDims p h.width.toNat h.height.toNat).1
    let ph := fun p => (passDims p h.width.toNat h.height.toNat).2
    let sumOver := fun f : Nat → Nat => (passes.map fun p => if pw p = 0 ∨ ph p = 0 then 0 else f p).sum
    let rb := fun p => (h.bitDepth * channelsOf h.colorType * pw p + 7) / 8
    let bigS := sumOver fun p => ph p * (1 + rb p)
    h.imageValid = true → bigS ≤ 2 ^ 32 - 1 →
      exec .imglen s = .next (s.completed s.mem s.regs (BitVec.ofNat 32 bigS)
        (BitVec.ofNat 32 (sumOver fun p => ph p * rb p)) (BitVec.ofNat 32 (sumOver fun p => ph p))
        (BitVec.ofNat 32 (sumOver fun _ => 1)))

/-- R179, R176, R175: UNPACK_ROW puts sample k of the packed row in slot k of the destination, zero-extended, a 16-bit
slot high byte first, and writes nothing else. -/
def Obligations.UnpackRowWrites : Prop :=
  ∀ (s : State) (l : Latched), s.phase = .busy l →
    let o := l.regs
    let h := o.hdr
    let rb := h.rowBytes o.arg2.toNat
    let n := h.samples o.arg2.toNat
    let sw := h.sampleWidth
    let d := h.bitDepth
    let row := fun j => (s.readByte (o.arg0.toNat + j)).toNat
    let sample := fun k =>
      if d < 8 then (row (k * d / 8) / 2 ^ (8 - d - k * d % 8)) % 2 ^ d
      else if d = 8 then row k
      else row (2 * k) * 256 + row (2 * k + 1)
    h.fmtValid = true → 1 + rb ≤ u32Max → n * sw ≤ u32Max → RangesFit .unpackRow o s → RangesApart .unpackRow o s →
      ∃ t, exec .unpackRow s = .next t
        ∧ t = s.completed t.mem s.regs (u32 n) (u32 (n * sw)) 0 0
        ∧ SameOutside s t ⟨o.arg1.toNat, n * sw⟩
        ∧ ∀ k < n,
          let slot := fun j => (t.readByte (o.arg1.toNat + j)).toNat
          (if d ≤ 8 then slot k else slot (2 * k) * 256 + slot (2 * k + 1)) = sample k

/-- R180: PACK_ROW writes the packed row whose sample k is the value of slot k and whose padding bits are 0, and
writes nothing else. -/
def Obligations.PackRowWrites : Prop :=
  ∀ (s : State) (l : Latched), s.phase = .busy l →
    let o := l.regs
    let h := o.hdr
    let rb := h.rowBytes o.arg2.toNat
    let n := h.samples o.arg2.toNat
    let sw := h.sampleWidth
    h.fmtValid = true → 1 + rb ≤ u32Max → n * sw ≤ u32Max → RangesFit .packRow o s → RangesApart .packRow o s →
    (∀ k < n, beValue (s.memRead (o.arg0.toNat + k * sw) sw) < 2 ^ h.bitDepth) →
      ∃ t, exec .packRow s = .next t
        ∧ t = s.completed t.mem s.regs (u32 rb) (u32 n) 0 0
        ∧ SameOutside s t ⟨o.arg1.toNat, rb⟩
        ∧ (∀ k < n, sampleOf h.bitDepth (t.memRead o.arg1.toNat rb) k = beValue (s.memRead (o.arg0.toNat + k * sw) sw))
        ∧ (0 < rb → (t.readByte (o.arg1.toNat + rb - 1)).toNat % 2 ^ (8 * rb - n * h.bitDepth) = 0)

/-- R222, R220: A7_DIMS reports the dimensions of the pass, the grid points that the pass table puts inside the image, and
whether it is skipped. -/
def Obligations.PassDimensions : Prop :=
  ∀ (s : State) (l : Latched), s.phase = .busy l → l.regs.arg0.toNat ≤ 7 →
    let p := l.regs.arg0.toNat
    let count := fun size start stride : Nat => ((List.range size).filter fun x => start ≤ x ∧ (x - start) % stride = 0).length
    let pw := count l.regs.hdr.width.toNat ([0, 0, 4, 0, 2, 0, 1, 0].getD p 0) ([1, 8, 8, 4, 4, 2, 2, 1].getD p 1)
    let ph := count l.regs.hdr.height.toNat ([0, 0, 0, 4, 0, 2, 0, 1].getD p 0) ([1, 8, 8, 8, 4, 4, 2, 2].getD p 1)
    exec .a7Dims s = .next (s.completed s.mem s.regs (u32 pw) (u32 ph) (if pw = 0 ∨ ph = 0 then 1 else 0) 0)

/-- R223: A7_MAP maps pass coordinates to image coordinates, which lie in the image; R224: A7_INV maps image
coordinates to the pass that holds the pixel and to its coordinates there, which lie inside the pass. -/
def Obligations.CoordinatesAreMapped : Prop :=
  ∀ (s : State) (l : Latched), s.phase = .busy l →
    let o := l.regs
    let wide := o.hdr.width.toNat
    let high := o.hdr.height.toNat
    (let p := o.arg0.toNat
      let x := (passGrid p).xs + o.arg1.toNat * (passGrid p).xd
      let y := (passGrid p).ys + o.arg2.toNat * (passGrid p).yd
      p ≤ 7 → o.arg1.toNat < (passDims p wide high).1 → o.arg2.toNat < (passDims p wide high).2 →
        exec .a7Map s = .next (s.completed s.mem s.regs (u32 x) (u32 y) 0 0) ∧ x < wide ∧ y < high)
      ∧ (o.arg0.toNat < wide → o.arg1.toNat < high →
        ∃ p px py, exec .a7Inv s = .next (s.completed s.mem s.regs (u32 p) (u32 px) (u32 py) 0) ∧ 1 ≤ p ∧ p ≤ 7
          ∧ o.arg0.toNat = (passGrid p).xs + px * (passGrid p).xd
          ∧ o.arg1.toNat = (passGrid p).ys + py * (passGrid p).yd
          ∧ px < (passDims p wide high).1 ∧ py < (passDims p wide high).2)

/-- R131, R130: CRC_UPDATE absorbs the bytes into CRC, or with CI into the initial value, bit by bit; RES0 is the finished CRC-32, and
with CF the register is initialised again. Only RES0 and CRC change. -/
def Obligations.CrcUpdateAbsorbs : Prop :=
  ∀ (s : State) (l : Latched) (ci cf : Bool), s.phase = .busy l →
    let o := l.regs
    let bit := fun c : Word => if c.getLsbD 0 then (c >>> 1) ^^^ 0xEDB88320#32 else c >>> 1
    let absorb := fun (c : Word) (b : Byte) => bit (bit (bit (bit (bit (bit (bit (bit (c ^^^ b.setWidth 32))))))))
    let c := (s.memRead o.arg0.toNat o.arg1.toNat).foldl absorb (if ci then 0xFFFFFFFF else o.crc)
    (Range.mk o.arg0.toNat o.arg1.toNat).Fits s.memSize →
      exec (.crcUpdate ci cf) s = .next (s.completed s.mem
        { s.regs with crc := if cf then 0xFFFFFFFF else c } (c ^^^ 0xFFFFFFFF) 0 0 0)

/-- R138: FR_START on a stream that begins with the signature starts a parse at its ninth byte. -/
def Obligations.ParseStarts : Prop :=
  ∀ (s : State) (l : Latched), s.phase = .busy l →
    let o := l.regs
    8 ≤ o.arg1.toNat → o.arg0.toNat + o.arg1.toNat ≤ 2 ^ 32 - 1 → o.arg0.toNat + o.arg1.toNat ≤ s.memSize →
    s.memRead o.arg0.toNat 8 = [0x89, 0x50, 0x4E, 0x47, 0x0D, 0x0A, 0x1A, 0x0A] →
      exec .frStart s = .next (s.completed s.mem
        { s.regs with
          fr := ⟨true, ⟨false, false, .noIdat, false⟩, false, false⟩
          frBase := o.arg0
          frCursor := o.arg0 + 8
          frLimit := o.arg0 + o.arg1 } (o.arg1 - 8) 0 0 0)

/-- R139, R141, R99: FR_NEXT on a whole, intact, acceptable chunk reports it with its kind, advances the cursor by 12 + L and updates the
ordering state; an 'IHDR' loads the header registers. -/
def Obligations.ChunkIsParsed : Prop :=
  ∀ (s : State) (l : Latched), s.phase = .busy l →
    let o := l.regs
    let at0 := o.frCursor.toNat
    let b := fun j => (s.readByte (at0 + j)).toNat
    let len := b 0 * 2 ^ 24 + b 1 * 2 ^ 16 + b 2 * 2 ^ 8 + b 3
    let t := s.memRead (at0 + 4) 4
    let p := s.memRead (at0 + 8) len
    let kind := if t = [0x49, 0x48, 0x44, 0x52] then 1 else if t = [0x50, 0x4C, 0x54, 0x45] then 2
      else if t = [0x49, 0x44, 0x41, 0x54] then 3 else if t = [0x49, 0x45, 0x4E, 0x44] then 4
      else if t = [0x74, 0x52, 0x4E, 0x53] then 5 else 0
    o.fr.sigOk = true → o.fr.fail = false → o.fr.done = false → o.frLimit.toNat ≤ s.memSize →
    at0 + 12 + len ≤ o.frLimit.toNat → beValue (s.memRead (at0 + 8 + len) 4) = (crc32 (t ++ p)).toNat →
    o.fr.order.Accepts t len p →
      exec .frNext s = .next (s.completed s.mem
        { s.regs with
          fr := { o.fr with order := o.fr.order.update t }
          frCursor := u32 (at0 + 12 + len)
          hdr := if t = tIHDR then loadHeader p else s.regs.hdr }
        (u32 (beValue t)) (u32 len) (u32 (at0 + 8)) kind)

/-- R145: FR_FINISH after the 'IEND' at the end of the stream sets DONE and reports the stream length; where a race has left
FR_LIMIT below FR_BASE, the length is a value nothing constrains (log 21). -/
def Obligations.ParseFinishes : Prop :=
  ∀ (s : State) (l : Latched), s.phase = .busy l →
    let o := l.regs
    o.fr.sigOk = true → o.fr.fail = false → o.fr.done = false → o.fr.order.iendSeen = true →
    o.frLimit.toNat ≤ o.frCursor.toNat →
      exec .frFinish s = .next (s.completed s.mem
        { s.regs with fr := { o.fr with done := true } } (if o.frBase.toNat ≤ o.frLimit.toNat then o.frLimit - o.frBase else Config.negativeOffset o.frLimit o.frBase) 0 0 0)

/-- R150: EM_START writes the signature and opens the stream after it. -/
def Obligations.EmitStarts : Prop :=
  ∀ (s : State) (l : Latched), s.phase = .busy l →
    let o := l.regs
    8 ≤ o.arg1.toNat → o.arg0.toNat + o.arg1.toNat ≤ 2 ^ 32 - 1 → o.arg0.toNat + o.arg1.toNat ≤ s.memSize →
      ∃ t, exec .emStart s = .next t
        ∧ t = s.completed t.mem
          { s.regs with
            em := ⟨true, ⟨false, false, .noIdat, false⟩⟩
            emBase := o.arg0
            emCursor := o.arg0 + 8
            emLimit := o.arg0 + o.arg1 } 8 0 0 0
        ∧ t.memRead o.arg0.toNat 8 = [0x89, 0x50, 0x4E, 0x47, 0x0D, 0x0A, 0x1A, 0x0A]
        ∧ SameOutside s t ⟨o.arg0.toNat, 8⟩

/-- R152, R141: EM_CHUNK writes the chunk of the given type and payload at EM_CURSOR, its length and its CRC-32 (R130) over
type and payload big-endian (R66), and advances EM_CURSOR by 12 + L. -/
def Obligations.ChunkIsEmitted : Prop :=
  ∀ (s : State) (l : Latched), s.phase = .busy l →
    let o := l.regs
    let at0 := o.emCursor.toNat
    let len := o.arg2.toNat
    let big := fun v : Word =>
      [BitVec.ofNat 8 (v.toNat / 2 ^ 24), BitVec.ofNat 8 (v.toNat / 2 ^ 16), BitVec.ofNat 8 (v.toNat / 2 ^ 8),
        BitVec.ofNat 8 v.toNat]
    let bit := fun c : Word => if c.getLsbD 0 then (c >>> 1) ^^^ 0xEDB88320#32 else c >>> 1
    let absorb := fun (c : Word) (b : Byte) => bit (bit (bit (bit (bit (bit (bit (bit (c ^^^ b.setWidth 32))))))))
    let t := big o.arg0
    let p := s.memRead o.arg1.toNat len
    let crc := (t ++ p).foldl absorb 0xFFFFFFFF ^^^ 0xFFFFFFFF
    o.em.started = true → 12 + len ≤ 2 ^ 32 - 1 → at0 + 12 + len ≤ o.emLimit.toNat → at0 + 12 + len ≤ s.memSize →
    RangesFit .emChunk o s → RangesApart .emChunk o s → o.em.order.Accepts t len p →
      ∃ u, exec .emChunk s = .next u
        ∧ u = s.completed u.mem
          { s.regs with
            em := { o.em with order := o.em.order.update t }
            emCursor := u32 (at0 + 12 + len)
            hdr := if t = tIHDR then loadHeader p else s.regs.hdr } (u32 (12 + len)) crc 0 0
        ∧ u.memRead at0 (12 + len) = big o.arg2 ++ t ++ p ++ big crc
        ∧ SameOutside s u ⟨at0, 12 + len⟩

/-- R156: EM_IHDR writes the 25 bytes of the 'IHDR' chunk of a legal header, and writes back the same header. -/
def Obligations.HeaderIsEmitted : Prop :=
  ∀ (s : State) (l : Latched), s.phase = .busy l →
    let o := l.regs
    let h := o.hdr
    let at0 := o.emCursor.toNat
    let p := bytesBE4 h.width ++ bytesBE4 h.height ++
      [h.fmt.extractLsb' 0 8, h.fmt.extractLsb' 8 8, h.fmt.extractLsb' 16 8, h.fmt.extractLsb' 24 8, h.il]
    o.em.started = true → at0 + 25 ≤ o.emLimit.toNat → at0 + 25 ≤ s.memSize → o.em.order.iendSeen = false →
    o.em.order.ihdrSeen = false → h.imageValid = true → h.compression = 0 → h.filterMethod = 0 →
      ∃ u, exec .emIhdr s = .next u
        ∧ u = s.completed u.mem
          { s.regs with
            em := { o.em with order := o.em.order.update tIHDR }
            emCursor := u32 (at0 + 25)
            hdr := h } 25 (crc32 (tIHDR ++ p)) 0 0
        ∧ u.memRead at0 25 = [0, 0, 0, 13] ++ tIHDR ++ p ++ bytesBE4 (crc32 (tIHDR ++ p))
        ∧ SameOutside s u ⟨at0, 25⟩

/-- R157: EM_IDAT writes max(1, ceil(L / M)) consecutive 'IDAT' chunks, each but the last of M payload bytes. -/
def Obligations.PayloadIsSplit : Prop :=
  ∀ (s : State) (l : Latched), s.phase = .busy l →
    let o := l.regs
    let at0 := o.emCursor.toNat
    let len := o.arg2.toNat
    let m := o.idatMax.toNat
    let k := max 1 ((len + m - 1) / m)
    o.em.started = true → m ≠ 0 → 12 * k + len ≤ 2 ^ 32 - 1 → at0 + 12 * k + len ≤ o.emLimit.toNat →
    at0 + 12 * k + len ≤ s.memSize → RangesFit .emIdat o s → RangesApart .emIdat o s →
    o.em.order.iendSeen = false → o.em.order.ihdrSeen = true → o.em.order.idat ≠ .closed →
      ∃ u, exec .emIdat s = .next u
        ∧ u = s.completed u.mem
          { s.regs with
            em := { o.em with order := { o.em.order with idat := .isOpen } }
            emCursor := u32 (at0 + 12 * k + len) } (u32 (12 * k + len)) (u32 k) 0 0
        ∧ (∀ j < k,
            let lj := min m (len - j * m)
            let pj := s.memRead (o.arg1.toNat + j * m) lj
            u.memRead (at0 + j * (12 + m)) (12 + lj) = bytesBE4 (u32 lj) ++ tIDAT ++ pj ++ bytesBE4 (crc32 (tIDAT ++ pj)))
        ∧ SameOutside s u ⟨at0, 12 * k + len⟩

/-- R158: EM_IEND writes the 12 bytes of 'IEND' after an IDAT run and closes the stream. -/
def Obligations.StreamIsClosed : Prop :=
  ∀ (s : State) (l : Latched), s.phase = .busy l →
    let o := l.regs
    let at0 := o.emCursor.toNat
    o.em.started = true → at0 + 12 ≤ o.emLimit.toNat → at0 + 12 ≤ s.memSize → o.em.order.iendSeen = false →
    o.em.order.ihdrSeen = true → o.em.order.idat ≠ .noIdat →
      ∃ u, exec .emIend s = .next u
        ∧ u = s.completed u.mem
          { s.regs with
            em := { o.em with order := { o.em.order with iendSeen := true, idat := .closed } }
            emCursor := u32 (at0 + 12) } 12 0xAE426082 0 0
        ∧ u.memRead at0 12 = [0x00, 0x00, 0x00, 0x00, 0x49, 0x45, 0x4E, 0x44, 0xAE, 0x42, 0x60, 0x82]
        ∧ SameOutside s u ⟨at0, 12⟩

/-- R206, R192, R193: UNFILTER_ROW reconstructs byte i as filt[i] + Pred(t, a, b, c), in exact integers but for the last
addition, with a and c taken bpp bytes to the left in
the reconstructed and the prior row, and writes nothing else. -/
def Obligations.RowIsReconstructed : Prop :=
  ∀ (s : State) (l : Latched) (zp : Bool) (ty : FilterType), s.phase = .busy l →
    let o := l.regs
    let h := o.hdr
    let rb := h.rowBytes o.arg3.toNat
    let prior := fun i => if zp then 0 else s.readByte (o.arg2.toNat + i)
    let pred := fun a b c : Byte =>
      match ty with
      | .none => 0
      | .sub => a
      | .up => b
      | .average => BitVec.ofNat 8 ((a.toNat + b.toNat) / 2)
      | .paeth =>
        let p : Int := (a.toNat : Int) + b.toNat - c.toNat
        let pa := (p - a.toNat).natAbs
        let pb := (p - b.toNat).natAbs
        let pc := (p - c.toNat).natAbs
        if pa ≤ pb ∧ pa ≤ pc then a else if pb ≤ pc then b else c
    h.fmtValid = true → 1 + rb ≤ u32Max → RangesFit (.unfilterRow zp) o s → RangesApart (.unfilterRow zp) o s →
    s.readByte o.arg0.toNat = ty.code →
      ∃ t, exec (.unfilterRow zp) s = .next t
        ∧ t = s.completed t.mem s.regs (ty.code.setWidth 32) (u32 rb) 0 0
        ∧ SameOutside s t ⟨o.arg1.toNat, rb⟩
        ∧ ∀ i < rb, t.readByte (o.arg1.toNat + i) = s.readByte (o.arg0.toNat + 1 + i)
            + pred (neighbour h.bpp i fun j => t.readByte (o.arg1.toNat + j)) (prior i) (neighbour h.bpp i prior)

/-- R207: FILTER_ROW writes the selected type and raw[i] − Pred(t, a, b, c), and reports type, score and length; a score
that does not fit RES1 raises E_OVERFLOW(0) (R9; that it does so as the last check is the model's reading, log 20). -/
def Obligations.RowIsFiltered : Prop :=
  ∀ (s : State) (l : Latched) (ft : BitVec 3) (zp : Bool) (ty : FilterType), s.phase = .busy l →
    let o := l.regs
    let h := o.hdr
    let rb := h.rowBytes o.arg3.toNat
    let raw := fun i => s.readByte (o.arg0.toNat + i)
    let prior := fun i => if zp then 0 else s.readByte (o.arg2.toNat + i)
    let filtered := fun i => raw i - predictor ty (neighbour h.bpp i raw) (prior i) (neighbour h.bpp i prior)
    let score := ((List.range rb).map fun i => min (filtered i).toNat (256 - (filtered i).toNat)).sum
    ft.toNat ≤ 5 → h.fmtValid = true → 1 + rb ≤ u32Max → RangesFit (.filterRow ft zp) o s →
    RangesApart (.filterRow ft zp) o s → (ft.toNat ≤ 4 → ty.code = ft.setWidth 8) →
    (ft = 5 → ty = autoType h.bpp (s.memRead o.arg0.toNat rb) ((List.range rb).map prior)) →
      (score ≤ 2 ^ 32 - 1 →
        ∃ t, exec (.filterRow ft zp) s = .next t
          ∧ t = s.completed t.mem s.regs (ty.code.setWidth 32) (u32 score) (u32 (1 + rb)) 0
          ∧ SameOutside s t ⟨o.arg1.toNat, 1 + rb⟩
          ∧ t.readByte o.arg1.toNat = ty.code
          ∧ ∀ i < rb, t.readByte (o.arg1.toNat + 1 + i) = filtered i)
        ∧ (2 ^ 32 - 1 < score → exec (.filterRow ft zp) s = .next (s.failWith ⟨.overflow, 0, 0⟩))

/-- R208: UNFILTER_IMAGE on a stream of the length the header implies, every type byte valid, writes the raw row
image of the stream and reports its length and scanlines. -/
def Obligations.ImageIsReconstructed : Prop :=
  ∀ (s : State) (l : Latched), s.phase = .busy l →
    let o := l.regs
    let ps := o.hdr.passRows
    o.hdr.imageValid = true → filteredBytes ps ≤ u32Max → o.arg2.toNat = filteredBytes ps →
    RangesFit .unfilterImage o s → RangesApart .unfilterImage o s →
    (∀ so ∈ typeOffsets ps 0, (s.readByte (o.arg0.toNat + so)).toNat ≤ 4) →
      ∃ t, exec .unfilterImage s = .next t
        ∧ t = s.completed t.mem s.regs (u32 (rawBytes ps)) (u32 (scanlines ps)) 0 0
        ∧ t.memRead o.arg1.toNat (rawBytes ps)
          = unfilterStream o.hdr.bpp ps (s.memRead o.arg0.toNat (filteredBytes ps))
        ∧ SameOutside s t ⟨o.arg1.toNat, rawBytes ps⟩

/-- R209: FILTER_IMAGE on a raw row image of the length the header implies writes its filtered image stream and
reports its length and scanlines. -/
def Obligations.ImageIsFiltered : Prop :=
  ∀ (s : State) (l : Latched) (ft : BitVec 3), s.phase = .busy l →
    let o := l.regs
    let ps := o.hdr.passRows
    ft.toNat ≤ 5 → o.hdr.imageValid = true → filteredBytes ps ≤ u32Max → o.arg2.toNat = rawBytes ps →
    RangesFit (.filterImage ft) o s → RangesApart (.filterImage ft) o s →
      ∃ t, exec (.filterImage ft) s = .next t
        ∧ t = s.completed t.mem s.regs (u32 (filteredBytes ps)) (u32 (scanlines ps)) 0 0
        ∧ t.memRead o.arg1.toNat (filteredBytes ps)
          = filterStream ft o.hdr.bpp ps (s.memRead o.arg0.toNat (rawBytes ps))
        ∧ SameOutside s t ⟨o.arg1.toNat, filteredBytes ps⟩

/-- Each filter-type byte in an UNFILTER_IMAGE walk reconstructs the bytes of the scanline in progress (R194-R198, R208)
and leaves the walk at the next scanline of the pass with the row just reconstructed as prior row (R47), at the first of
the next contributing pass with the zero row, or the command completed. That a filter-type byte acts on the scanline in
progress is the model's reading (log 8), the walk by scanlines its option (log 7). -/
def Obligations.FilterBytesReconstruct : Prop :=
  ∀ (s : State) (l : Latched) (w : RowWalk) (ty : FilterType),
    s.phase = .busy l → s.row = some w → w.kind = .unfilter → 1 ≤ w.bpp →
    (Range.mk w.src (1 + w.rb)).Fits s.memSize → (Range.mk w.dst w.rb).Fits s.memSize →
      ∃ t, exec (filterInstr ty) s = .next t
        ∧ SameOutside s t ⟨w.dst, w.rb⟩
        ∧ (∀ i < w.rb, t.readByte (w.dst + i) = s.readByte (w.src + 1 + i)
            + predictor ty (neighbour w.bpp i fun j => t.readByte (w.dst + j)) (byteAt w.prior i)
              (neighbour w.bpp i fun j => byteAt w.prior j))
        ∧ t =
          if 1 < w.left then
            { s with
              mem := t.mem
              row := some { w with
                src := w.src + 1 + w.rb, dst := w.dst + w.rb, left := w.left - 1, prior := t.memRead w.dst w.rb } }
          else
            match w.rest with
            | (rb, n) :: rest =>
              { s with
                mem := t.mem
                row := some { w with
                  src := w.src + 1 + w.rb, dst := w.dst + w.rb, rb := rb, left := n, prior := zeros rb, rest := rest } }
            | [] => s.completed t.mem s.regs (u32 (rawBytes l.regs.hdr.passRows)) (u32 (scanlines l.regs.hdr.passRows)) 0 0

/-- Each filter-type byte in a FILTER_IMAGE walk writes itself and the filtered bytes of the scanline (R199-R203,
R209), in the model's walk by scanlines (log 7); without a scanline in progress a filter-type byte has no effect to give and the machine stops (log 8). -/
def Obligations.FilterBytesFilter : Prop :=
  (∀ (s : State) (l : Latched) (w : RowWalk) (ft : BitVec 3) (ty : FilterType),
    s.phase = .busy l → s.row = some w → w.kind = .filter ft →
    (Range.mk w.src w.rb).Fits s.memSize → (Range.mk w.dst (1 + w.rb)).Fits s.memSize →
      ∃ t, exec (filterInstr ty) s = .next t
        ∧ SameOutside s t ⟨w.dst, 1 + w.rb⟩
        ∧ t.readByte w.dst = ty.code
        ∧ (∀ i < w.rb, t.readByte (w.dst + 1 + i) = s.readByte (w.src + i)
            - predictor ty (neighbour w.bpp i fun j => s.readByte (w.src + j)) (byteAt w.prior i)
              (neighbour w.bpp i fun j => byteAt w.prior j))
        ∧ t =
          if 1 < w.left then
            { s with
              mem := t.mem
              row := some { w with
                src := w.src + w.rb, dst := w.dst + 1 + w.rb, left := w.left - 1, prior := s.memRead w.src w.rb } }
          else
            match w.rest with
            | (rb, n) :: rest =>
              { s with
                mem := t.mem
                row := some { w with
                  src := w.src + w.rb, dst := w.dst + 1 + w.rb, rb := rb, left := n, prior := zeros rb, rest := rest } }
            | [] =>
              s.completed t.mem s.regs (u32 (filteredBytes l.regs.hdr.passRows)) (u32 (scanlines l.regs.hdr.passRows)) 0 0)
    ∧ ∀ (s : State) (ty : FilterType), s.row = none → exec (filterInstr ty) s = .fault .noScanline

/-! ### Errors -/

/-- R95, R96: the header predicates, and the commands that raise E_HEADER(0) when one fails. -/
def Obligations.HeaderErrors : Prop :=
  ∀ (s : State) (l : Latched) (zp : Bool) (ft : BitVec 3), s.phase = .busy l → ft.toNat ≤ 5 →
    let h := l.regs.hdr
    let formatLegal := (h.colorType, h.bitDepth) ∈
      [(0, 1), (0, 2), (0, 4), (0, 8), (0, 16), (2, 8), (2, 16), (3, 1), (3, 2), (3, 4), (3, 8), (4, 8), (4, 16), (6, 8),
        (6, 16)]
    let imageLegal := formatLegal ∧ 1 ≤ h.width.toNat ∧ 1 ≤ h.height.toNat ∧ (h.interlace = 0 ∨ h.interlace = 1)
    (h.fmtValid = true ↔ formatLegal) ∧ (h.imageValid = true ↔ imageLegal)
      ∧ (¬formatLegal → ∀ i ∈ [Instr.geom, .unpackRow, .packRow, .unfilterRow zp, .filterRow ft zp],
          exec i s = .next (s.failWith ⟨.header, 0, 0⟩))
      ∧ (¬imageLegal → ∀ i ∈ [Instr.imglen, .unfilterImage, .filterImage ft],
          exec i s = .next (s.failWith ⟨.header, 0, 0⟩))

/-- R241: every size that is checked against 2^32 − 1, and the commands that raise E_OVERFLOW(0) when it does not fit;
EM_CHUNK and EM_IDAT name their chunk (R245, as the model reads it beside R13: log 9). -/
def Obligations.OverflowErrors : Prop :=
  ∀ (s : State) (l : Latched) (zp : Bool) (ft : BitVec 3), s.phase = .busy l → ft.toNat ≤ 5 →
    let o := l.regs
    let h := o.hdr
    let tooWide := fun w => 2 ^ 32 - 1 < 1 + h.rowBytes w
    let tooMany := fun w => 2 ^ 32 - 1 < h.samples w * h.sampleWidth
    let chunks := max 1 ((o.arg2.toNat + o.idatMax.toNat - 1) / o.idatMax.toNat)
    let overflows := s.failWith ⟨.overflow, 0, 0⟩
    (h.fmtValid = true → tooWide o.arg0.toNat ∨ tooMany o.arg0.toNat → exec .geom s = .next overflows)
      ∧ (h.fmtValid = true → tooWide o.arg2.toNat ∨ tooMany o.arg2.toNat →
          exec .unpackRow s = .next overflows ∧ exec .packRow s = .next overflows)
      ∧ (h.fmtValid = true → tooWide o.arg3.toNat →
          exec (.unfilterRow zp) s = .next overflows ∧ exec (.filterRow ft zp) s = .next overflows)
      ∧ (h.imageValid = true →
          2 ^ 32 - 1 < filteredBytes h.passRows ∨ (∃ p ∈ h.passRows, 2 ^ 32 - 1 < 1 + p.1) →
          exec .imglen s = .next overflows ∧ exec .unfilterImage s = .next overflows ∧ exec (.filterImage ft) s = .next overflows)
      ∧ (2 ^ 32 - 1 < o.arg0.toNat + o.arg1.toNat →
          exec .frStart s = .next (s.failFramer ⟨.overflow, 0, 0⟩) ∧ exec .emStart s = .next overflows)
      ∧ (o.em.started = true → 2 ^ 32 - 1 < 12 + o.arg2.toNat →
          exec .emChunk s = .next (s.failWith ⟨.overflow, 0, o.arg0⟩))
      ∧ (o.em.started = true → o.idatMax ≠ 0 → 2 ^ 32 - 1 < 12 * chunks + o.arg2.toNat →
          exec .emIdat s = .next (s.failWith ⟨.overflow, 0, 0x49444154⟩))

/-- R63, R65: once the earlier checks hold, a range outside the memory raises E_BOUNDS(0), and otherwise a write range
that meets a read range raises E_OVERLAP(0). -/
def Obligations.RangeErrors : Prop :=
  ∀ (s : State) (l : Latched) (i : Instr), s.phase = .busy l →
    let o := l.regs
    let h := o.hdr
    (match i with
      | .unfilterRow _ => h.fmtValid = true ∧ 1 + h.rowBytes o.arg3.toNat ≤ u32Max
      | .filterRow ft _ => ft.toNat ≤ 5 ∧ h.fmtValid = true ∧ 1 + h.rowBytes o.arg3.toNat ≤ u32Max
      | .unpackRow | .packRow =>
        h.fmtValid = true ∧ 1 + h.rowBytes o.arg2.toNat ≤ u32Max ∧ h.samples o.arg2.toNat * h.sampleWidth ≤ u32Max
      | .unfilterImage =>
        h.imageValid = true ∧ filteredBytes h.passRows ≤ u32Max ∧ o.arg2.toNat = filteredBytes h.passRows
      | .filterImage ft =>
        ft.toNat ≤ 5 ∧ h.imageValid = true ∧ filteredBytes h.passRows ≤ u32Max ∧ o.arg2.toNat = rawBytes h.passRows
      | .crcUpdate _ _ => True
      | _ => False) →
      (¬RangesFit i o s → exec i s = .next (s.failWith ⟨.bounds, 0, 0⟩))
        ∧ (RangesFit i o s → ¬RangesApart i o s → exec i s = .next (s.failWith ⟨.overlap, 0, 0⟩))

/-- E_ARG_RANGE(0): a pass above 7, a coordinate outside the pass or the image, IDAT_MAX = 0 (R222-R224, R157). And
what a row's or an image's data can raise: the first type byte above 4 (R205, R206, R208), the first sample of 2^d or
more (R180), a declared length that is not the implied one (R208, R209). EM_IDAT names its chunk
(R245, as the model reads it beside R13: log 9). -/
def Obligations.ArgumentAndDataErrors : Prop :=
  ∀ (s : State) (l : Latched), s.phase = .busy l →
    let o := l.regs
    let h := o.hdr
    let ps := h.passRows
    let sw := h.sampleWidth
    let dims := passDims o.arg0.toNat h.width.toNat h.height.toNat
    let fails := fun i r => exec i s = .next (s.failWith r)
    (7 < o.arg0.toNat → fails .a7Dims ⟨.argRange, 0, 0⟩)
      ∧ (7 < o.arg0.toNat ∨ dims.1 ≤ o.arg1.toNat ∨ dims.2 ≤ o.arg2.toNat → fails .a7Map ⟨.argRange, 0, 0⟩)
      ∧ (h.width.toNat ≤ o.arg0.toNat ∨ h.height.toNat ≤ o.arg1.toNat → fails .a7Inv ⟨.argRange, 0, 0⟩)
      ∧ (o.em.started = true → o.idatMax = 0 → fails .emIdat ⟨.argRange, 0, 0x49444154⟩)
      ∧ (∀ zp, h.fmtValid = true → 1 + h.rowBytes o.arg3.toNat ≤ u32Max → RangesFit (.unfilterRow zp) o s →
          RangesApart (.unfilterRow zp) o s → 4 < (s.readByte o.arg0.toNat).toNat →
          fails (.unfilterRow zp) ⟨.filterType, 0, 0⟩)
      ∧ (∀ k, h.fmtValid = true → 1 + h.rowBytes o.arg2.toNat ≤ u32Max → h.samples o.arg2.toNat * sw ≤ u32Max →
          RangesFit .packRow o s → RangesApart .packRow o s → k < h.samples o.arg2.toNat →
          (∀ j < k, beValue (s.memRead (o.arg0.toNat + j * sw) sw) < 2 ^ h.bitDepth) →
          2 ^ h.bitDepth ≤ beValue (s.memRead (o.arg0.toNat + k * sw) sw) →
          fails .packRow ⟨.sampleRange, u32 (k * sw), 0⟩)
      ∧ (h.imageValid = true → filteredBytes ps ≤ u32Max → o.arg2.toNat ≠ filteredBytes ps →
          fails .unfilterImage ⟨.dataLength, u32 (min o.arg2.toNat (filteredBytes ps)), 0⟩)
      ∧ (∀ ft : BitVec 3, ft.toNat ≤ 5 → h.imageValid = true → filteredBytes ps ≤ u32Max →
          o.arg2.toNat ≠ rawBytes ps →
          fails (.filterImage ft) ⟨.dataLength, u32 (min o.arg2.toNat (rawBytes ps)), 0⟩)
      ∧ (∀ before so after, h.imageValid = true → filteredBytes ps ≤ u32Max → o.arg2.toNat = filteredBytes ps →
          RangesFit .unfilterImage o s → RangesApart .unfilterImage o s → typeOffsets ps 0 = before ++ so :: after →
          (∀ x ∈ before, (s.readByte (o.arg0.toNat + x)).toNat ≤ 4) →
          4 < (s.readByte (o.arg0.toNat + so)).toNat → fails .unfilterImage ⟨.filterType, u32 so, 0⟩)

/-- What FR_START raises on a range out of bounds, on the first byte that is not the signature's, and on a correct
prefix shorter than 8 bytes (R138). -/
def Obligations.SignatureErrors : Prop :=
  ∀ (s : State) (l : Latched), s.phase = .busy l →
    let o := l.regs
    let sig := fun i => byteAt [0x89, 0x50, 0x4E, 0x47, 0x0D, 0x0A, 0x1A, 0x0A] i
    o.arg0.toNat + o.arg1.toNat ≤ 2 ^ 32 - 1 →
      (¬(Range.mk o.arg0.toNat o.arg1.toNat).Fits s.memSize → exec .frStart s = .next (s.failFramer ⟨.bounds, 0, 0⟩))
        ∧ ((Range.mk o.arg0.toNat o.arg1.toNat).Fits s.memSize →
          (∀ i < min 8 o.arg1.toNat, (∀ j < i, s.readByte (o.arg0.toNat + j) = sig j) →
            s.readByte (o.arg0.toNat + i) ≠ sig i → exec .frStart s = .next (s.failFramer ⟨.signature, u32 i, 0⟩))
          ∧ (o.arg1.toNat < 8 → (∀ j < o.arg1.toNat, s.readByte (o.arg0.toNat + j) = sig j) →
            exec .frStart s = .next (s.failFramer ⟨.signature, o.arg1, 0⟩)))

/-- The errors of FR_NEXT and FR_FINISH, in their order (R139, R145, R247), up to the acceptance function; and
E_BOUNDS when the chunk lies outside the memory, which FR_START rules out and only a race can bring about (the model's
reading, log 13; the stream offset of a cursor below FR_BASE is then free, log 21). -/
def Obligations.ParserErrors : Prop :=
  ∀ (s : State) (l : Latched), s.phase = .busy l →
    let o := l.regs
    let f := o.fr
    let at0 := o.frCursor.toNat
    let q := offsetFrom o.frCursor o.frBase
    let m := o.frLimit.toNat - at0
    let len := beValue (s.memRead at0 4)
    let t := s.memRead (at0 + 4) 4
    let p := s.memRead (at0 + 8) len
    let fails := fun i r => exec i s = .next (s.failFramer r)
    (f.sigOk = false ∨ f.fail = true ∨ f.done = true →
        fails .frNext ⟨.sequence, 0, 0⟩ ∧ fails .frFinish ⟨.sequence, 0, 0⟩)
      ∧ (f.order.iendSeen = true → o.frCursor = o.frLimit → fails .frNext ⟨.sequence, 0, 0⟩)
      ∧ (f.sigOk = true → f.fail = false → f.done = false → ¬(f.order.iendSeen = true ∧ o.frCursor = o.frLimit) →
        ¬RangesFit .frNext o s →
        fails .frNext ⟨.bounds, 0, if at0 + 8 ≤ o.frLimit.toNat ∧ at0 + 8 ≤ s.memSize then packType t else 0⟩)
      ∧ (f.sigOk = true → f.fail = false → f.done = false →
        (f.order.iendSeen = false → fails .frFinish ⟨.missingIend, q, 0⟩)
        ∧ (f.order.iendSeen = true → at0 < o.frLimit.toNat →
            fails .frFinish ⟨.afterIend, q, 0⟩ ∧ (o.frLimit.toNat ≤ s.memSize → fails .frNext ⟨.afterIend, q, 0⟩))
        ∧ (f.order.iendSeen = false → m = 0 ∨ o.frLimit.toNat ≤ s.memSize →
          (m < 12 → fails .frNext ⟨.truncated, q, if 8 ≤ m then packType t else 0⟩)
          ∧ (12 ≤ m → m < 12 + len → fails .frNext ⟨.length, q, packType t⟩)
          ∧ (12 + len ≤ m → beValue (s.memRead (at0 + 8 + len) 4) ≠ (crc32 (t ++ p)).toNat →
              fails .frNext ⟨.crc, q, packType t⟩)
          ∧ (∀ r, 12 + len ≤ m → beValue (s.memRead (at0 + 8 + len) 4) = (crc32 (t ++ p)).toNat →
              firstFailure (acceptChecks f.order q t len p) = some r → fails .frNext r)))

/-- The errors of the five emit commands, in their order (R150-R152, R156-R158): EM_START's E_CAPACITY and E_BOUNDS; for the
others E_SEQUENCE before EM_START, E_CAPACITY at the stream offset with the chunk's type, E_BOUNDS and E_OVERLAP with the
chunk's type (R245, as the model reads it beside R13: log 9), then the acceptance function's. Their E_OVERFLOW is in
OverflowErrors, EM_IDAT's E_ARG_RANGE in ArgumentAndDataErrors. E_BOUNDS of the bytes to be written, and a free stream
offset, only a race can bring about (log 13, log 21). -/
def Obligations.EmitterErrors : Prop :=
  ∀ (s : State) (l : Latched), s.phase = .busy l →
    let o := l.regs
    let q := offsetFrom o.emCursor o.emBase
    let room := o.emLimit.toNat - o.emCursor.toNat
    let len := o.arg2.toNat
    let total := 12 * max 1 ((len + o.idatMax.toNat - 1) / o.idatMax.toNat) + len
    let fails := fun i r => exec i s = .next (s.failWith r)
    (o.arg0.toNat + o.arg1.toNat ≤ 2 ^ 32 - 1 →
        (o.arg1.toNat < 8 → fails .emStart ⟨.capacity, 0, 0⟩)
        ∧ (8 ≤ o.arg1.toNat → s.memSize < o.arg0.toNat + o.arg1.toNat → fails .emStart ⟨.bounds, 0, 0⟩))
      ∧ (o.em.started = false → ∀ i ∈ [Instr.emChunk, .emIhdr, .emIdat, .emIend], fails i ⟨.sequence, 0, 0⟩)
      ∧ (o.em.started = true →
        (12 + len ≤ 2 ^ 32 - 1 → room < 12 + len → fails .emChunk ⟨.capacity, q, o.arg0⟩)
        ∧ (room < 25 → fails .emIhdr ⟨.capacity, q, 0x49484452⟩)
        ∧ (o.idatMax ≠ 0 → total ≤ 2 ^ 32 - 1 → room < total → fails .emIdat ⟨.capacity, q, 0x49444154⟩)
        ∧ (room < 12 → fails .emIend ⟨.capacity, q, 0x49454E44⟩)
        ∧ (12 + len ≤ 2 ^ 32 - 1 → 12 + len ≤ room →
            (¬RangesFit .emChunk o s → fails .emChunk ⟨.bounds, 0, o.arg0⟩)
            ∧ (RangesFit .emChunk o s → ¬RangesApart .emChunk o s → fails .emChunk ⟨.overlap, 0, o.arg0⟩))
        ∧ (25 ≤ room → ¬RangesFit .emIhdr o s → fails .emIhdr ⟨.bounds, 0, 0x49484452⟩)
        ∧ (o.idatMax ≠ 0 → total ≤ 2 ^ 32 - 1 → total ≤ room →
            (¬RangesFit .emIdat o s → fails .emIdat ⟨.bounds, 0, 0x49444154⟩)
            ∧ (RangesFit .emIdat o s → ¬RangesApart .emIdat o s → fails .emIdat ⟨.overlap, 0, 0x49444154⟩))
        ∧ (12 ≤ room → ¬RangesFit .emIend o s → fails .emIend ⟨.bounds, 0, 0x49454E44⟩)
        ∧ (∀ r, 12 + len ≤ 2 ^ 32 - 1 → 12 + len ≤ room → RangesFit .emChunk o s → RangesApart .emChunk o s →
            firstFailure (acceptChecks o.em.order q (bytesBE4 o.arg0) len (s.memRead o.arg1.toNat len)) = some r →
            fails .emChunk r)
        ∧ (∀ r, 25 ≤ room → RangesFit .emIhdr o s →
            firstFailure (acceptChecks o.em.order q tIHDR 13 (headerPayload o.hdr)) = some r → fails .emIhdr r)
        ∧ (∀ r, o.idatMax ≠ 0 → total ≤ 2 ^ 32 - 1 → total ≤ room → RangesFit .emIdat o s → RangesApart .emIdat o s →
            firstFailure (acceptChecks o.em.order q tIDAT 0 []) = some r → fails .emIdat r)
        ∧ (∀ r, 12 ≤ room → RangesFit .emIend o s →
            firstFailure (acceptChecks o.em.order q tIEND 0 []) = some r → fails .emIend r))

/-- R133-R137: Accept raises the first failing check in the order written, and otherwise updates the state. -/
def Obligations.AcceptanceFunction : Prop :=
  ∀ (c : ChunkOrder) (q : Word) (t : List Byte) (len : Nat) (p : List Byte),
    let raises := fun e => some (Raise.mk e q (packType t))
    let field := fun k : Word => some (Raise.mk .ihdrField (q + 8 + k) (packType t))
    let ct := (byteAt p 9).toNat
    firstFailure (acceptChecks c q t len p) =
        (if c.iendSeen = true then raises .afterIend
        else if c.ihdrSeen = false ∧ t ≠ tIHDR then raises .ihdrNotFirst
        else if t = tIHDR ∧ c.ihdrSeen = true then raises .dupIhdr
        else if t = tPLTE ∧ c.plteSeen = true then raises .dupPlte
        else if t = tIDAT ∧ c.idat = .closed then raises .idatNoncontig
        else if t = tIEND ∧ c.idat = .noIdat then raises .missingIdat
        else if t = tIHDR then
          if len ≠ 13 then raises .ihdrLength
          else if beValue (p.take 4) = 0 then field 0
          else if beValue ((p.drop 4).take 4) = 0 then field 4
          else if ct ∉ [0, 2, 3, 4, 6] then field 9
          else if depthLegal ct (byteAt p 8).toNat = false then field 8
          else if byteAt p 10 ≠ 0 then field 10
          else if byteAt p 11 ≠ 0 then field 11
          else if byteAt p 12 ≠ 0 ∧ byteAt p 12 ≠ 1 then field 12
          else none
        else if t = tPLTE then if len = 0 ∨ len % 3 ≠ 0 ∨ 768 < len then raises .plteLength else none
        else if t = tIEND then if len ≠ 0 then raises .iendLength else none
        else none)
      ∧ (firstFailure (acceptChecks c q t len p) = none ↔ c.Accepts t len p)
      ∧ c.update t =
        { ihdrSeen := if t = tIHDR then true else c.ihdrSeen
          plteSeen := if t = tPLTE then true else c.plteSeen
          idat := if t = tIDAT then .isOpen else if c.idat = .isOpen then .closed else c.idat
          iendSeen := if t = tIEND then true else c.iendSeen }

/-- R113, R244: a command that raises an error writes no byte and changes no register but STATUS, ERR_OFFSET,
ERR_CHUNK and, for the three parser commands, FR_STATE.FAIL; and every other completion is a success with ERR and
ERRCODE as they were. The codes are those of R240. -/
def Obligations.ErrorsChangeNothingElse : Prop :=
  (let codes : List (ErrCode × Byte) :=
    [(.signature, 0x10), (.truncated, 0x11), (.length, 0x12), (.crc, 0x13), (.ihdrNotFirst, 0x14), (.dupIhdr, 0x15),
      (.dupPlte, 0x16), (.idatNoncontig, 0x17), (.afterIend, 0x18), (.missingIdat, 0x19), (.missingIend, 0x1A),
      (.ihdrLength, 0x1B), (.ihdrField, 0x1C), (.iendLength, 0x1D), (.plteLength, 0x1E), (.filterType, 0x1F),
      (.dataLength, 0x20), (.header, 0x30), (.sampleRange, 0x31), (.capacity, 0x32), (.illegalCmd, 0x40),
      (.sequence, 0x41), (.argRange, 0x42), (.bounds, 0x43), (.overlap, 0x44), (.overflow, 0x45)]
    ∀ e : ErrCode, (e, e.code) ∈ codes)
    ∧ ∀ (s t : State) (l : Latched) (i : Instr), s.phase = .busy l → (∀ ty, i ≠ filterInstr ty) → exec i s = .next t →
      t.phase = .idle
        ∧ (t.status = { s.status with done := true }
          ∨ ∃ e : ErrCode,
            t = { s with
              status := { s.status with err := true, errCode := e.code }
              errOffset := t.errOffset
              errChunk := t.errChunk
              regs := if i = .frStart ∨ i = .frNext ∨ i = .frFinish then
                { s.regs with fr := { s.regs.fr with fail := true } } else s.regs
              phase := .idle
              row := none
              raced := false })

/-- R146: an error of FR_START, FR_NEXT or FR_FINISH sets FAIL and nothing else of FR_*; only a successful FR_START, a
reset or a race (R73) clears FAIL again; while it is set FR_NEXT and FR_FINISH raise E_SEQUENCE; and an illegal command
word does not set it. -/
def Obligations.ParserFailureIsSticky : Prop :=
  (∀ (s t : State) (l : Latched) (i : Instr), s.phase = .busy l → i ∈ [Instr.frStart, .frNext, .frFinish] →
      s.status.err = false → exec i s = .next t → t.status.err = true →
        t.regs = { s.regs with fr := { s.regs.fr with fail := true } })
    ∧ (∀ s t : State, s.Inv → s.raced = false → s.regs.fr.fail = true → step s = .next t →
        t.regs.fr.fail = true
          ∨ (∃ rest v, s.agenda = .host (.regWrite 0x0C .word v) :: rest ∧ v.getLsbD 2 = true)
          ∨ (∃ rest, s.agenda = .host .powerOn :: rest)
          ∨ (s.cmd = 0x20 ∧ s.busy = true ∧ t.status.done = true))
    ∧ (∀ (s : State) (l : Latched), s.phase = .busy l → l.regs.fr.fail = true →
        exec .frNext s = .next (s.failFramer ⟨.sequence, 0, 0⟩)
          ∧ exec .frFinish s = .next (s.failFramer ⟨.sequence, 0, 0⟩))
    ∧ ∀ (s : State) (l : Latched), s.phase = .busy l → s.raced = false → s.row = none →
        (∀ i, decodeCommand l.word ≠ .ok i) → ∃ t, s.engineMove false = .next t ∧ t.regs = s.regs

/-- R204: AUTO selects a type of smallest score, the lowest of them. -/
def Obligations.AutoSelection : Prop :=
  ∀ (bpp : Nat) (raw prior : List Byte) (t : FilterType),
    let score := fun ty => ((filterBytes ty bpp raw prior).map fun b => min b.toNat (256 - b.toNat)).sum
    let best := autoType bpp raw prior
    score best ≤ score t ∧ (score t = score best → best.code.toNat ≤ t.code.toNat)

/-! ### Whole-machine rules -/

/-- Which registers and bytes a command can change at all (R30, R36-R43, R64, R118, R141): no byte outside its write
set; never ARG0-ARG3, IDAT_MAX, CMD, CTRL or LOST; CRC only by CRC_UPDATE; HDR_* only by FR_NEXT, EM_CHUNK and
EM_IHDR; FR_* only by FR_*; EM_* only by EM_*. -/
def Obligations.CommandFrame : Prop :=
  ∀ (s t : State) (l : Latched) (i : Instr), s.phase = .busy l → (∀ ty, i ≠ filterInstr ty) → exec i s = .next t →
    let framer := i = .frStart ∨ i = .frNext ∨ i = .frFinish
    let emitter := i = .emStart ∨ i = .emChunk ∨ i = .emIhdr ∨ i = .emIdat ∨ i = .emIend
    (∀ a, inRanges (writeSet i l.regs) a = false → t.readByte a = s.readByte a)
      ∧ t.regs.arg0 = s.regs.arg0 ∧ t.regs.arg1 = s.regs.arg1 ∧ t.regs.arg2 = s.regs.arg2 ∧ t.regs.arg3 = s.regs.arg3
      ∧ t.regs.idatMax = s.regs.idatMax ∧ t.cmd = s.cmd ∧ t.irqEn = s.irqEn ∧ t.status.lost = s.status.lost
      ∧ ((∀ ci cf, i ≠ .crcUpdate ci cf) → t.regs.crc = s.regs.crc)
      ∧ (i ≠ .frNext → i ≠ .emChunk → i ≠ .emIhdr → t.regs.hdr = s.regs.hdr)
      ∧ (¬framer → t.regs.fr = s.regs.fr ∧ t.regs.frBase = s.regs.frBase ∧ t.regs.frCursor = s.regs.frCursor
          ∧ t.regs.frLimit = s.regs.frLimit)
      ∧ (¬emitter → t.regs.em = s.regs.em ∧ t.regs.emBase = s.regs.emBase ∧ t.regs.emCursor = s.regs.emCursor
          ∧ t.regs.emLimit = s.regs.emLimit)
      ∧ t.memSize = s.memSize ∧ t.epoch = s.epoch ∧ t.agenda = s.agenda ∧ t.hostData = s.hostData ∧ t.free = s.free

/-- R115: an accepted command never waits and never stops the machine. Whenever BUSY = 1 every move of the engine is a next
state, in which either the command has completed, with BUSY = 0 and exactly one of DONE and ERR, or an image command that
goes by scanlines stands at a scanline, with fewer moves left than before (such a walk is the model's option, log 7); a
move of the whole command from no scanline completes it; and some number of moves by scanlines completes it. -/
def Obligations.CommandsAlwaysComplete : Prop :=
  ∀ s : State, s.Inv → s.busy = true →
    let complete := fun t : State => t.busy = false ∧ t.row = none ∧ t.status.done ≠ t.status.err
    (∀ byRows : Bool, ∃ t, s.engineMove byRows = .next t
        ∧ (complete t
          ∨ t.phase = s.phase ∧ ∃ w, t.row = some w ∧ (s.row = none → byRows = true)
            ∧ ∀ v, s.row = some v → w.movesLeft < v.movesLeft))
      ∧ ∃ n t, s.rowMoves n = .next t ∧ complete t

/-- Every step keeps the machine's invariant: the memory stays canonical and inside MEM_SIZE, STATUS keeps R23's
invariants, the latched command is the live registers (R46), and an idle engine has no row context (R47). -/
def Obligations.InvariantIsKept : Prop :=
  ∀ s t : State, s.Inv → step s = .next t → t.Inv

/-- R38, R42: every step that is not the completion of a raced command keeps the stream invariants: every step of the
engine without a race, and every step of the host. -/
def Obligations.StreamInvariantIsKept : Prop :=
  ∀ s t : State, s.Inv → s.StreamInv → (s.raced = false ∨ ∃ op rest, s.agenda = .host op :: rest) →
    step s = .next t → t.StreamInv

/-- The invariants hold right after reset. -/
def Obligations.InvariantsAtReset : Prop :=
  State.reset.Inv ∧ State.reset.StreamInv

/-- R210: reconstructing what was filtered gives the row back, for every filter type and every bpp. -/
def Obligations.FilterRoundTrip : Prop :=
  ∀ (ty : FilterType) (bpp : Nat) (row prior : List Byte), 1 ≤ bpp → row.length = prior.length →
    unfilterBytes ty bpp (filterBytes ty bpp row prior) prior = row

/-- R210 at image level: UNFILTER_IMAGE of what FILTER_IMAGE wrote, with any legal FT, writes back the raw row image,
whatever else the host has done in between to registers and to other bytes. -/
def Obligations.ImageRoundTrip : Prop :=
  ∀ (s t u : State) (l m : Latched) (ft : BitVec 3),
    let ps := l.regs.hdr.passRows
    s.phase = .busy l → exec (.filterImage ft) s = .next t → t.status.err = false →
    u.phase = .busy m → u.status.err = false → m.regs.hdr = l.regs.hdr → m.regs.arg2.toNat = filteredBytes ps →
    u.memRead m.regs.arg0.toNat (filteredBytes ps) = t.memRead l.regs.arg1.toNat (filteredBytes ps) →
    RangesFit .unfilterImage m.regs u → RangesApart .unfilterImage m.regs u →
      ∃ v, exec .unfilterImage u = .next v ∧ v.status.done = true ∧ v.status.err = false
        ∧ v.memRead m.regs.arg1.toNat (rawBytes ps) = s.memRead l.regs.arg0.toNat (rawBytes ps)

/-- R181: packing what was unpacked gives a validly padded row back, and unpacking what was packed gives samples in
range back. -/
def Obligations.PackUnpackRoundTrip : Prop :=
  ∀ (h : Header) (w : Nat), h.fmtValid = true →
    let d := h.bitDepth
    let rb := h.rowBytes w
    let n := h.samples w
    (∀ row : List Byte, row.length = rb → (0 < rb → (byteAt row (rb - 1)).toNat % 2 ^ (8 * rb - n * d) = 0) →
        packSamples d rb (unpackSamples d n row) = row)
      ∧ ∀ vs : List Nat, vs.length = n → (∀ v ∈ vs, v < 2 ^ d) → unpackSamples d n (packSamples d rb vs) = vs

/-- R225: the seven passes partition the image: every pixel is exactly one pixel of exactly one pass, and every pixel
of a pass is a pixel of the image. -/
def Obligations.Adam7Partition : Prop :=
  ∀ w h : Nat,
    let inside := fun p px py : Nat => 1 ≤ p ∧ p ≤ 7 ∧ px < (passDims p w h).1 ∧ py < (passDims p w h).2
    (∀ p px py, inside p px py → imageX p px < w ∧ imageY p py < h)
      ∧ (∀ x y, x < w → y < h → ∃ p px py, inside p px py ∧ imageX p px = x ∧ imageY p py = y)
      ∧ ∀ p px py p' px' py', inside p px py → inside p' px' py' → imageX p px = imageX p' px' →
          imageY p py = imageY p' py' → p = p' ∧ px = px' ∧ py = py'

/-- R280: an image command that goes by scanlines ends, after one move that begins the walk and one move a scanline,
in the very state the command as one step ends in, a success or an error (the walk is the model's option, log 7). -/
def Obligations.ScanlinesRefineTheCommand : Prop :=
  ∀ (s t : State) (l : Latched) (i : Instr), s.phase = .busy l → s.raced = false → s.row = none →
    decodeCommand l.word = .ok i → (i = .unfilterImage ∨ ∃ ft, i = .filterImage ft) →
    s.engineMove false = .next t →
      s.rowMoves (1 + scanlines l.regs.hdr.passRows) = .next t

/-- R159 for one chunk: FR_NEXT at the place where EM_CHUNK put a chunk, in a parse whose ordering state is the
emitter's, accepts it and reports the type, the length and the payload's place. -/
def Obligations.EmittedChunkParses : Prop :=
  ∀ (s t u : State) (l m : Latched), s.phase = .busy l → exec .emChunk s = .next t → t.status.err = false →
    let at0 := l.regs.emCursor.toNat
    let len := l.regs.arg2.toNat
    u.phase = .busy m → u.status.err = false → m.regs.fr.sigOk = true → m.regs.fr.fail = false →
    m.regs.fr.done = false → m.regs.fr.order = l.regs.em.order → m.regs.frCursor = l.regs.emCursor →
    at0 + 12 + len ≤ m.regs.frLimit.toNat → m.regs.frLimit.toNat ≤ u.memSize →
    u.memRead at0 (12 + len) = t.memRead at0 (12 + len) →
      ∃ v, exec .frNext u = .next v ∧ v.status.done = true ∧ v.status.err = false ∧ v.res0 = l.regs.arg0
        ∧ v.res1 = l.regs.arg2 ∧ v.res2 = u32 (at0 + 8) ∧ v.regs.fr.order = t.regs.em.order
        ∧ v.regs.frCursor = u32 (at0 + 12 + len)
        ∧ u.memRead (at0 + 8) len = s.memRead l.regs.arg1.toNat len
end

