-- ==== Sys2Proof/Laws/Memory.lean ====
section
/-!
SUPPORT. The laws of the buffer memory: a read after a write, the frame of a write, and that every memory operation
keeps the canonical form.
-/

namespace Sys2Proof.Machine

/-! ### One byte -/

theorem Memory.lookup_write (m : Memory) (a x : Nat) (b : Byte) :
    Memory.lookup (Memory.write m a b) x = if x = a then some b else Memory.lookup m x := by
  induction m with
  | nil => simp [Memory.write, Memory.lookup, eq_comm]
  | cons c m ih =>
    obtain ⟨y, v⟩ := c
    simp only [Memory.write]
    split_ifs <;> simp_all [Memory.lookup] <;> grind

/-- The addresses of a memory after a write are the old ones and the written one. -/
theorem Memory.mem_write {m : Memory} {a : Nat} {b : Byte} {c : Host.Cell} (h : c ∈ Memory.write m a b) :
    c ∈ m ∨ c = (a, b) := by
  induction m with
  | nil => simpa [Memory.write] using h
  | cons d m ih =>
    simp only [Memory.write] at h
    split_ifs at h <;> grind

theorem Memory.write_wf {m : Memory} (h : Memory.wf m) (a : Nat) (b : Byte) : Memory.wf (Memory.write m a b) := by
  induction m with
  | nil => simp [Memory.write, Memory.wf]
  | cons d m ih =>
    obtain ⟨y, v⟩ := d
    obtain ⟨hy, hm⟩ := List.pairwise_cons.mp h
    simp only [Memory.write]
    split_ifs with h1 h2
    · refine List.pairwise_cons.mpr ⟨fun c hc => ?_, h⟩
      rcases List.mem_cons.mp hc with rfl | hc
      · exact h1
      · exact lt_trans h1 (hy c hc)
    · subst h2
      exact List.pairwise_cons.mpr ⟨hy, hm⟩
    · refine List.pairwise_cons.mpr ⟨fun c hc => ?_, ih hm⟩
      rcases Memory.mem_write hc with hc | rfl
      · exact hy c hc
      · simp only; omega

/-! ### Byte sequences -/

theorem Memory.lookup_writeBytes (bs : List Byte) (m : Memory) (a x : Nat) :
    Memory.lookup (Memory.writeBytes m a bs) x
      = if a ≤ x ∧ x < a + bs.length then some (bs.getD (x - a) 0) else Memory.lookup m x := by
  induction bs generalizing m a with
  | nil => simp [Memory.writeBytes]
  | cons b bs ih =>
    simp only [Memory.writeBytes, ih, Memory.lookup_write, List.length_cons]
    by_cases hx : x = a
    · subst hx
      simp
    · by_cases h : a + 1 ≤ x ∧ x < a + 1 + bs.length
      · have h' : a ≤ x ∧ x < a + (bs.length + 1) := by omega
        rw [if_pos h, if_pos h', show x - a = (x - (a + 1)) + 1 by omega, List.getD_cons_succ]
      · have h' : ¬(a ≤ x ∧ x < a + (bs.length + 1)) := by omega
        rw [if_neg h, if_neg h', if_neg hx]

theorem Memory.writeBytes_wf (bs : List Byte) {m : Memory} (h : Memory.wf m) (a : Nat) :
    Memory.wf (Memory.writeBytes m a bs) := by
  induction bs generalizing m a with
  | nil => exact h
  | cons b bs ih => exact ih (Memory.write_wf h a b) (a + 1)

/-- A written entry is an old one or lies in the written range. -/
theorem Memory.mem_writeBytes (bs : List Byte) {m : Memory} {a : Nat} {c : Host.Cell}
    (h : c ∈ Memory.writeBytes m a bs) : c ∈ m ∨ (a ≤ c.1 ∧ c.1 < a + bs.length) := by
  induction bs generalizing m a with
  | nil => exact .inl h
  | cons b bs ih =>
    rcases ih h with h | h
    · rcases Memory.mem_write h with h | rfl
      · exact .inl h
      · exact .inr ⟨le_rfl, by simp⟩
    · exact .inr ⟨by omega, by simp only [List.length_cons]; omega⟩

/-- Every listed address of a memory exists. -/
abbrev Memory.below (m : Memory) (size : Nat) : Prop := ∀ c ∈ m, c.1 < size

theorem Memory.writeBytes_below {m : Memory} {size a : Nat} {bs : List Byte} (h : Memory.below m size)
    (hb : bs = [] ∨ a + bs.length ≤ size) : Memory.below (Memory.writeBytes m a bs) size := by
  intro c hc
  rcases Memory.mem_writeBytes bs hc with hc | hc
  · exact h c hc
  · rcases hb with rfl | hb
    · simp at hc; omega
    · omega

/-! ### Reads and writes of the machine -/

theorem State.readByte_memWrite (s : State) (a x : Nat) (bs : List Byte) :
    (s.memWrite a bs).readByte x = if a ≤ x ∧ x < a + bs.length then bs.getD (x - a) 0 else s.readByte x := by
  simp only [State.readByte, State.memWrite, Memory.lookup_writeBytes]
  by_cases h : a ≤ x ∧ x < a + bs.length
  · simp [h]
  · rw [if_neg h, if_neg h]

/-- A byte outside the written range reads as before. -/
theorem State.readByte_memWrite_outside {s : State} {a x : Nat} {bs : List Byte} (h : x < a ∨ a + bs.length ≤ x) :
    (s.memWrite a bs).readByte x = s.readByte x := by
  rw [State.readByte_memWrite, if_neg (by omega)]

/-- A byte of the written range reads as written. -/
theorem State.readByte_memWrite_inside {s : State} {a k : Nat} {bs : List Byte} (h : k < bs.length) :
    (s.memWrite a bs).readByte (a + k) = bs.getD k 0 := by
  rw [State.readByte_memWrite, if_pos (by omega)]
  simp

@[simp] theorem State.memRead_length (s : State) (a n : Nat) : (s.memRead a n).length = n := by
  simp [State.memRead]

theorem State.getD_memRead {s : State} {a n k : Nat} (h : k < n) : (s.memRead a n).getD k 0 = s.readByte (a + k) := by
  simp [State.memRead, List.getD_eq_getElem?_getD, h]

/-- Two states whose bytes of a range agree give the same sequence. -/
theorem State.memRead_congr {s t : State} {a n : Nat} (h : ∀ k < n, s.readByte (a + k) = t.readByte (a + k)) :
    s.memRead a n = t.memRead a n := by
  simp only [State.memRead]
  exact List.map_congr_left (fun k hk => h k (List.mem_range.mp hk))

/-- A read of `n` bytes at the start of what was just written. -/
theorem State.memRead_memWrite_same (s : State) (a : Nat) (bs : List Byte) :
    (s.memWrite a bs).memRead a bs.length = bs := by
  refine List.ext_getElem (by simp) (fun k h1 h2 => ?_)
  simp [State.memRead, State.readByte_memWrite_inside h2, h2]

/-- A read of a range apart from the written one. -/
theorem State.memRead_memWrite_apart {s : State} {a b n : Nat} {bs : List Byte}
    (h : b + n ≤ a ∨ a + bs.length ≤ b) : (s.memWrite a bs).memRead b n = s.memRead b n :=
  State.memRead_congr (fun k hk => State.readByte_memWrite_outside (by omega))

theorem State.memRead_append (s : State) (a m n : Nat) :
    s.memRead a (m + n) = s.memRead a m ++ s.memRead (a + m) n := by
  simp only [State.memRead, List.range_add, List.map_append, List.map_map]
  congr 1
  exact List.map_congr_left (fun k _ => by simp [Nat.add_assoc])

/-! ### Free values -/

@[simp] theorem freeBytes_length (k n : Nat) : (freeBytes k n).length = n := by simp [freeBytes]

theorem Range.clip_fits (r : Range) (size : Nat) :
    (r.clip size).len = 0 ∨ (r.clip size).start + (r.clip size).len ≤ size := by
  simp only [Range.clip]
  omega

theorem Range.clip_sub {r : Range} {size x : Nat} (h : x < r.start ∨ r.start + r.len ≤ x) :
    x < (r.clip size).start ∨ (r.clip size).start + (r.clip size).len ≤ x := by
  simp only [Range.clip]
  omega

/-- Scrambling a range leaves every byte outside it alone. -/
theorem State.readByte_scramble_outside {s : State} {r : Range} {x : Nat} (h : r.contains x = false) :
    (s.scramble r).readByte x = s.readByte x := by
  have hx : x < r.start ∨ r.start + r.len ≤ x := by
    simp [Range.contains] at h
    omega
  have := Range.clip_sub (size := s.memSize) hx
  exact State.readByte_memWrite_outside (by simpa using this)

end Sys2Proof.Machine
end

