-- ==== Sys2Proof/Laws/Ops.lean ====
section
/-!
SUPPORT. What the shared operations can do, said once: the checks of a command and its two completions.
-/

namespace Sys2Proof.Machine

/-- Every check holds. -/
abbrev allHold (cs : List Check) : Prop := ∀ c ∈ cs, c.holds = true

theorem firstFailure_eq_none {cs : List Check} : firstFailure cs = none ↔ allHold cs := by
  induction cs with
  | nil => simp [firstFailure, allHold]
  | cons c cs ih =>
    simp only [firstFailure]
    split_ifs with h <;> simp [ih, h, allHold]

/-- What a failing check list raises is one of its checks' errors, and every check before it holds. -/
theorem firstFailure_eq_some {cs : List Check} {r : Raise} :
    firstFailure cs = some r ↔
      ∃ before c after, cs = before ++ c :: after ∧ allHold before ∧ c.holds = false ∧ c.orRaise = r := by
  induction cs with
  | nil => simp [firstFailure]
  | cons c cs ih =>
    simp only [firstFailure]
    split_ifs with h
    · rw [ih]
      constructor
      · rintro ⟨b, d, a, rfl, hb, hd⟩
        exact ⟨c :: b, d, a, rfl, by simpa [allHold, h] using hb, hd⟩
      · rintro ⟨b, d, a, hc, hb, hd, hr⟩
        cases b with
        | nil => simp at hc; obtain ⟨rfl, rfl⟩ := hc; simp [h] at hd
        | cons e b =>
          simp only [List.cons_append, List.cons.injEq] at hc
          exact ⟨b, d, a, hc.2, fun x hx => hb x (List.mem_cons_of_mem _ hx), hd, hr⟩
    · constructor
      · intro hr
        exact ⟨[], c, cs, rfl, by simp [allHold], by simpa using h, by simpa using hr⟩
      · rintro ⟨b, d, a, hc, hb, hd, hr⟩
        cases b with
        | nil => simp at hc; obtain ⟨rfl, rfl⟩ := hc; simp [hr]
        | cons e b =>
          simp only [List.cons_append, List.cons.injEq] at hc
          exact absurd (hc.1 ▸ hb e (by simp)) h

theorem firstFailure_append {xs ys : List Check} (h : allHold xs) : firstFailure (xs ++ ys) = firstFailure ys := by
  induction xs with
  | nil => rfl
  | cons c xs ih =>
    simp only [List.cons_append, firstFailure, h c (by simp), if_true]
    exact ih (fun x hx => h x (List.mem_cons_of_mem _ hx))

/-- A command whose checks all hold has its effect. -/
theorem conclude_pass {cs : List Check} {f : Raise → State} {o : Host.Outcome State Fault Refusal} (h : allHold cs) :
    conclude cs f o = o := by
  simp [conclude, firstFailure_eq_none.mpr h]

/-- A command one of whose checks fails raises the first that does. -/
theorem conclude_fail {cs : List Check} {f : Raise → State} {o : Host.Outcome State Fault Refusal} {r : Raise}
    (h : firstFailure cs = some r) : conclude cs f o = .next (f r) := by
  simp [conclude, h]

/-- Everything a command can do: raise one of its errors, or, all checks holding, have its effect. -/
theorem conclude_next {cs : List Check} {f : Raise → State} {o : Host.Outcome State Fault Refusal} {t : State}
    (h : conclude cs f o = .next t) : (∃ r, firstFailure cs = some r ∧ t = f r) ∨ (allHold cs ∧ o = .next t) := by
  simp only [conclude] at h
  split at h
  · rename_i r hr
    exact .inl ⟨r, hr, by simpa using h.symm⟩
  · rename_i hn
    exact .inr ⟨firstFailure_eq_none.mp hn, h⟩

theorem allHold_append {xs ys : List Check} : allHold (xs ++ ys) ↔ allHold xs ∧ allHold ys := by
  simp only [allHold, List.mem_append, or_imp, forall_and]

theorem allHold_cons {c : Check} {cs : List Check} : allHold (c :: cs) ↔ c.holds = true ∧ allHold cs := by
  simp [allHold]

theorem allHold_boundsChecks {size : Nat} {rs : List Range} {r : Raise} :
    allHold (boundsChecks size rs r) ↔ ∀ x ∈ rs, x.inBounds size = true := by
  simp [boundsChecks, allHold]

theorem allHold_overlapChecks {reads writes : List Range} {r : Raise} :
    allHold (overlapChecks reads writes r) ↔ ∀ w ∈ writes, ∀ x ∈ reads, x.overlaps w = false := by
  simp only [overlapChecks, allHold, List.mem_flatMap, List.mem_map]
  constructor
  · intro h w hw x hx
    have := h _ ⟨w, hw, x, hx, rfl⟩
    simpa using this
  · rintro h c ⟨w, hw, x, hx, rfl⟩
    simp [h w hw x hx]

/-- InBounds as a fact about numbers (20_memory.md R63). -/
theorem Range.inBounds_iff {r : Range} {size : Nat} : r.inBounds size = true ↔ r.len = 0 ∨ r.start + r.len ≤ size := by
  simp [Range.inBounds]

/-- Apart ranges as a fact about numbers (20_memory.md R65). -/
theorem Range.overlaps_eq_false {p q : Range} :
    p.overlaps q = false ↔
      p.len = 0 ∨ q.len = 0 ∨ q.start + q.len ≤ p.start ∨ p.start + p.len ≤ q.start := by
  simp only [Range.overlaps, Bool.and_eq_false_iff, decide_eq_false_iff_not]
  omega

/-- Without a race the difference is the difference (log 21). -/
theorem offsetFrom_of_le {hi lo : Word} (h : lo.toNat ≤ hi.toNat) : offsetFrom hi lo = hi - lo := if_pos h

/-- The latched operands of a running command (40_command_issue.md R111). -/
theorem State.operands_busy {s : State} {l : Latched} (h : s.phase = .busy l) : s.operands = l.regs := by
  simp [State.operands, h]

end Sys2Proof.Machine
end

