-- ==== Sys2Proof/Laws/Chunks.lean ====
section
/-!
SUPPORT. Lengths of chunks and runs of chunks, and what the acceptance checks say.
-/

namespace Sys2Proof.Machine

/-- bytesBE_4 as arithmetic (00_scope.md R12). -/
theorem bytesBE4_eq (v : Word) :
    bytesBE4 v = [BitVec.ofNat 8 (v.toNat / 2 ^ 24), BitVec.ofNat 8 (v.toNat / 2 ^ 16), BitVec.ofNat 8 (v.toNat / 2 ^ 8),
      BitVec.ofNat 8 v.toNat] := by
  simp [bytesBE4, BitVec.extractLsb', Nat.shiftRight_eq_div_pow]

@[simp] theorem bytesBE4_length (v : Word) : (bytesBE4 v).length = 4 := rfl

theorem chunkBytes_length {t p : List Byte} (ht : t.length = 4) : (chunkBytes t p).length = 12 + p.length := by
  simp only [chunkBytes, List.length_append, bytesBE4_length, ht]
  omega

/-- The payloads of the first `k` chunks of a run. -/
theorem idatRun_prefix_length (p : List Byte) (most k : Nat) :
    ((List.range k).flatMap (fun j => chunkBytes tIDAT ((p.drop (j * most)).take most))).length
      = 12 * k + min (k * most) p.length := by
  induction k with
  | zero => simp
  | succ k ih =>
    have h1 : (k + 1) * most = k * most + most := by ring
    rw [List.range_succ, List.flatMap_append, List.length_append, ih]
    simp only [List.flatMap_cons, List.flatMap_nil, List.append_nil]
    rw [chunkBytes_length (by rfl), List.length_take, List.length_drop]
    omega

/-- A run of IDAT chunks is its payload and 12 bytes a chunk (41_chunk_framer.md R157). -/
theorem idatRun_length {p : List Byte} {most : Nat} (hm : most ≠ 0) :
    (idatRun p most).length = 12 * idatChunks p.length most + p.length := by
  rw [idatRun, idatRun_prefix_length]
  have hdiv := Nat.div_add_mod (p.length + most - 1) most
  have hmod := Nat.mod_lt (p.length + most - 1) (Nat.pos_of_ne_zero hm)
  have hk : p.length ≤ idatChunks p.length most * most := by
    have : p.length ≤ ceilDiv p.length most * most := by
      simp only [ceilDiv, Nat.mul_comm _ most]
      omega
    exact this.trans (Nat.mul_le_mul_right _ (by simp [idatChunks]))
  rw [min_eq_right hk]

@[simp] theorem headerPayload_length (h : Header) : (headerPayload h).length = 13 := rfl

end Sys2Proof.Machine
end

