-- ==== Sys2Proof/Laws/Rows.lean ====
section
/-!
SUPPORT. Lengths of rows, streams and layouts, and what the header predicates say about geometry.
-/

namespace Sys2Proof.Machine

@[simp] theorem zeros_length (n : Nat) : (zeros n).length = n := by simp [zeros]

/-! ### Filtering and reconstructing keep the row length -/

@[simp] theorem reconBytes_length (t : FilterType) (bpp : Nat) (filt prior : List Byte) (n : Nat) :
    (reconBytes t bpp filt prior n).length = n := by
  induction n with
  | zero => rfl
  | succ n ih => simp [reconBytes, ih]

@[simp] theorem unfilterBytes_length (t : FilterType) (bpp : Nat) (filt prior : List Byte) :
    (unfilterBytes t bpp filt prior).length = filt.length := by simp [unfilterBytes]

@[simp] theorem filterBytes_length (t : FilterType) (bpp : Nat) (raw prior : List Byte) :
    (filterBytes t bpp raw prior).length = raw.length := by simp [filterBytes]

@[simp] theorem filteredRow_length (t : FilterType) (bpp : Nat) (raw prior : List Byte) :
    (filteredRow t bpp raw prior).length = 1 + raw.length := by simp [filteredRow, Nat.add_comm]

theorem unfilterPass_length (bpp rb n : Nat) (prior stream : List Byte) (h : n * (1 + rb) ≤ stream.length) :
    (unfilterPass bpp rb n prior stream).length = n * rb := by
  induction n generalizing prior stream with
  | zero => simp [unfilterPass]
  | succ n ih =>
    have h1 : (n + 1) * (1 + rb) = n * (1 + rb) + (1 + rb) := by ring
    have h2 : (n + 1) * rb = n * rb + rb := by ring
    have hlen : n * (1 + rb) ≤ (stream.drop (1 + rb)).length := by rw [List.length_drop]; omega
    simp only [unfilterPass, List.length_append, unfilterBytes_length, List.length_take, List.length_drop,
      ih _ _ hlen]
    omega

theorem filterPass_length (ft : BitVec 3) (bpp rb n : Nat) (prior image : List Byte) (h : n * rb ≤ image.length) :
    (filterPass ft bpp rb n prior image).length = n * (1 + rb) := by
  induction n generalizing prior image with
  | zero => simp [filterPass]
  | succ n ih =>
    have h1 : (n + 1) * (1 + rb) = n * (1 + rb) + (1 + rb) := by ring
    have h2 : (n + 1) * rb = n * rb + rb := by ring
    have hlen : n * rb ≤ (image.drop rb).length := by rw [List.length_drop]; omega
    simp only [filterPass, List.length_append, filteredRow_length, List.length_take, ih _ _ hlen]
    omega

@[simp] theorem filteredBytes_nil : filteredBytes [] = 0 := rfl
@[simp] theorem rawBytes_nil : rawBytes [] = 0 := rfl
@[simp] theorem filteredBytes_cons (rb n : Nat) (ps : List (Nat × Nat)) :
    filteredBytes ((rb, n) :: ps) = n * (1 + rb) + filteredBytes ps := rfl
@[simp] theorem rawBytes_cons (rb n : Nat) (ps : List (Nat × Nat)) :
    rawBytes ((rb, n) :: ps) = n * rb + rawBytes ps := rfl

theorem unfilterStream_length (bpp : Nat) (ps : List (Nat × Nat)) (stream : List Byte)
    (h : filteredBytes ps ≤ stream.length) : (unfilterStream bpp ps stream).length = rawBytes ps := by
  induction ps generalizing stream with
  | nil => rfl
  | cons p ps ih =>
    obtain ⟨rb, n⟩ := p
    rw [filteredBytes_cons] at h
    have hlen : filteredBytes ps ≤ (stream.drop (n * (1 + rb))).length := by rw [List.length_drop]; omega
    rw [unfilterStream, List.length_append, unfilterPass_length _ _ _ _ _ (by omega), ih _ hlen, rawBytes_cons]

theorem filterStream_length (ft : BitVec 3) (bpp : Nat) (ps : List (Nat × Nat)) (image : List Byte)
    (h : rawBytes ps ≤ image.length) : (filterStream ft bpp ps image).length = filteredBytes ps := by
  induction ps generalizing image with
  | nil => rfl
  | cons p ps ih =>
    obtain ⟨rb, n⟩ := p
    rw [rawBytes_cons] at h
    have hlen : rawBytes ps ≤ (image.drop (n * rb)).length := by rw [List.length_drop]; omega
    rw [filterStream, List.length_append, filterPass_length _ _ _ _ _ _ (by omega), ih _ hlen, filteredBytes_cons]

/-! ### Geometry -/

/-- A legal depth is one of five (30_encoding.md R94). -/
theorem depth_of_fmtValid {h : Header} (hv : h.fmtValid = true) :
    h.bitDepth = 1 ∨ h.bitDepth = 2 ∨ h.bitDepth = 4 ∨ h.bitDepth = 8 ∨ h.bitDepth = 16 := by
  simp only [Header.fmtValid, Bool.and_eq_true] at hv
  have := hv.2
  unfold depthLegal at this
  split at this <;> simp at this <;> omega

/-- A legal color type has one to four channels (30_encoding.md R93). -/
theorem channels_of_fmtValid {h : Header} (hv : h.fmtValid = true) :
    h.channels = 1 ∨ h.channels = 2 ∨ h.channels = 3 ∨ h.channels = 4 := by
  simp only [Header.fmtValid, Bool.and_eq_true] at hv
  have := hv.1
  simp only [colorTypeLegal, List.contains_eq_mem, List.mem_cons, List.not_mem_nil, or_false, decide_eq_true_eq] at this
  rcases this with h0 | h0 | h0 | h0 | h0 <;> simp [Header.channels, h0, channelsOf]

theorem slotBytes_length (sw : Nat) (vs : List Nat) :
    (slotBytes sw vs).length = vs.length * (if sw = 1 then 1 else 2) := by
  induction vs with
  | nil => simp [slotBytes]
  | cons v vs ih =>
    simp only [slotBytes, List.flatMap_cons, List.length_append, List.length_cons] at ih ⊢
    rw [ih]
    split_ifs with hs <;> simp [sampleSlot, hs] <;> ring

/-- A row of depth 8 or 16 has no padding (42_bit_unpacker.md R176). -/
theorem rowBytes_of_whole {h : Header} {w : Nat} (hd : h.bitDepth = 8 ∨ h.bitDepth = 16) :
    h.rowBytes w = h.samples w * h.sampleWidth := by
  simp only [Header.rowBytes, Header.samples, Header.sampleWidth, ceilDiv]
  rcases hd with hd | hd <;> simp only [hd]
  · rw [show 8 * h.channels * w = 8 * (w * h.channels) by ring]; simp; omega
  · rw [show 16 * h.channels * w = 8 * (w * h.channels * 2) by ring]; simp; omega

/-- The packed row has the row's byte count (42_bit_unpacker.md R180). -/
theorem packSamples_length {h : Header} {w : Nat} {vs : List Nat} (hv : h.fmtValid = true)
    (hn : vs.length = h.samples w) : (packSamples h.bitDepth (h.rowBytes w) vs).length = h.rowBytes w := by
  rcases depth_of_fmtValid hv with hd | hd | hd | hd | hd <;> simp only [packSamples, hd]
  · simp
  · simp
  · simp
  · rw [rowBytes_of_whole (.inl hd)]
    simp [hn, Header.sampleWidth, hd]
  · rw [rowBytes_of_whole (.inr hd)]
    simp [hn, Header.sampleWidth, hd]

/-- The unpacked row fills its slots (42_bit_unpacker.md R175). -/
theorem slotBytes_sampleWidth {h : Header} {vs : List Nat} :
    (slotBytes h.sampleWidth vs).length = vs.length * h.sampleWidth := by
  rw [slotBytes_length]
  simp only [Header.sampleWidth]
  split_ifs <;> simp_all

@[simp] theorem unpackSamples_length (d n : Nat) (row : List Byte) : (unpackSamples d n row).length = n := by
  simp [unpackSamples]

@[simp] theorem slotSamples_length (sw n : Nat) (bs : List Byte) : (slotSamples sw n bs).length = n := by
  simp [slotSamples]

end Sys2Proof.Machine
end

