-- ==== Sys2Proof/Laws/State.lean ====
section
/-!
SUPPORT. One lemma per field per update: what each shared operation leaves in every field of the state.
-/

namespace Sys2Proof.Machine

variable (s : State)

/-! ### memWrite: MemWrite changes the memory alone. -/

@[simp] theorem State.memWrite_cmd (a : Nat) (bs : List Byte) : (s.memWrite a bs).cmd = s.cmd := rfl
@[simp] theorem State.memWrite_status (a : Nat) (bs : List Byte) : (s.memWrite a bs).status = s.status := rfl
@[simp] theorem State.memWrite_irqEn (a : Nat) (bs : List Byte) : (s.memWrite a bs).irqEn = s.irqEn := rfl
@[simp] theorem State.memWrite_regs (a : Nat) (bs : List Byte) : (s.memWrite a bs).regs = s.regs := rfl
@[simp] theorem State.memWrite_res0 (a : Nat) (bs : List Byte) : (s.memWrite a bs).res0 = s.res0 := rfl
@[simp] theorem State.memWrite_res1 (a : Nat) (bs : List Byte) : (s.memWrite a bs).res1 = s.res1 := rfl
@[simp] theorem State.memWrite_res2 (a : Nat) (bs : List Byte) : (s.memWrite a bs).res2 = s.res2 := rfl
@[simp] theorem State.memWrite_res3 (a : Nat) (bs : List Byte) : (s.memWrite a bs).res3 = s.res3 := rfl
@[simp] theorem State.memWrite_errOffset (a : Nat) (bs : List Byte) : (s.memWrite a bs).errOffset = s.errOffset := rfl
@[simp] theorem State.memWrite_errChunk (a : Nat) (bs : List Byte) : (s.memWrite a bs).errChunk = s.errChunk := rfl
@[simp] theorem State.memWrite_phase (a : Nat) (bs : List Byte) : (s.memWrite a bs).phase = s.phase := rfl
@[simp] theorem State.memWrite_row (a : Nat) (bs : List Byte) : (s.memWrite a bs).row = s.row := rfl
@[simp] theorem State.memWrite_mem (a : Nat) (bs : List Byte) : (s.memWrite a bs).mem = Memory.writeBytes s.mem a bs := rfl
@[simp] theorem State.memWrite_memSize (a : Nat) (bs : List Byte) : (s.memWrite a bs).memSize = s.memSize := rfl
@[simp] theorem State.memWrite_raced (a : Nat) (bs : List Byte) : (s.memWrite a bs).raced = s.raced := rfl
@[simp] theorem State.memWrite_epoch (a : Nat) (bs : List Byte) : (s.memWrite a bs).epoch = s.epoch := rfl
@[simp] theorem State.memWrite_agenda (a : Nat) (bs : List Byte) : (s.memWrite a bs).agenda = s.agenda := rfl
@[simp] theorem State.memWrite_hostData (a : Nat) (bs : List Byte) : (s.memWrite a bs).hostData = s.hostData := rfl
@[simp] theorem State.memWrite_free (a : Nat) (bs : List Byte) : (s.memWrite a bs).free = s.free := rfl

/-! ### withResults: A command's results are RES0-RES3. -/

@[simp] theorem State.withResults_cmd (a b c d : Word) : (s.withResults a b c d).cmd = s.cmd := rfl
@[simp] theorem State.withResults_status (a b c d : Word) : (s.withResults a b c d).status = s.status := rfl
@[simp] theorem State.withResults_irqEn (a b c d : Word) : (s.withResults a b c d).irqEn = s.irqEn := rfl
@[simp] theorem State.withResults_regs (a b c d : Word) : (s.withResults a b c d).regs = s.regs := rfl
@[simp] theorem State.withResults_res0 (a b c d : Word) : (s.withResults a b c d).res0 = a := rfl
@[simp] theorem State.withResults_res1 (a b c d : Word) : (s.withResults a b c d).res1 = b := rfl
@[simp] theorem State.withResults_res2 (a b c d : Word) : (s.withResults a b c d).res2 = c := rfl
@[simp] theorem State.withResults_res3 (a b c d : Word) : (s.withResults a b c d).res3 = d := rfl
@[simp] theorem State.withResults_errOffset (a b c d : Word) : (s.withResults a b c d).errOffset = s.errOffset := rfl
@[simp] theorem State.withResults_errChunk (a b c d : Word) : (s.withResults a b c d).errChunk = s.errChunk := rfl
@[simp] theorem State.withResults_phase (a b c d : Word) : (s.withResults a b c d).phase = s.phase := rfl
@[simp] theorem State.withResults_row (a b c d : Word) : (s.withResults a b c d).row = s.row := rfl
@[simp] theorem State.withResults_mem (a b c d : Word) : (s.withResults a b c d).mem = s.mem := rfl
@[simp] theorem State.withResults_memSize (a b c d : Word) : (s.withResults a b c d).memSize = s.memSize := rfl
@[simp] theorem State.withResults_raced (a b c d : Word) : (s.withResults a b c d).raced = s.raced := rfl
@[simp] theorem State.withResults_epoch (a b c d : Word) : (s.withResults a b c d).epoch = s.epoch := rfl
@[simp] theorem State.withResults_agenda (a b c d : Word) : (s.withResults a b c d).agenda = s.agenda := rfl
@[simp] theorem State.withResults_hostData (a b c d : Word) : (s.withResults a b c d).hostData = s.hostData := rfl
@[simp] theorem State.withResults_free (a b c d : Word) : (s.withResults a b c d).free = s.free := rfl

/-! ### toIdle: The phase becomes IDLE (R46, R47). -/

@[simp] theorem State.toIdle_cmd : (s.toIdle).cmd = s.cmd := rfl
@[simp] theorem State.toIdle_status : (s.toIdle).status = s.status := rfl
@[simp] theorem State.toIdle_irqEn : (s.toIdle).irqEn = s.irqEn := rfl
@[simp] theorem State.toIdle_regs : (s.toIdle).regs = s.regs := rfl
@[simp] theorem State.toIdle_res0 : (s.toIdle).res0 = s.res0 := rfl
@[simp] theorem State.toIdle_res1 : (s.toIdle).res1 = s.res1 := rfl
@[simp] theorem State.toIdle_res2 : (s.toIdle).res2 = s.res2 := rfl
@[simp] theorem State.toIdle_res3 : (s.toIdle).res3 = s.res3 := rfl
@[simp] theorem State.toIdle_errOffset : (s.toIdle).errOffset = s.errOffset := rfl
@[simp] theorem State.toIdle_errChunk : (s.toIdle).errChunk = s.errChunk := rfl
@[simp] theorem State.toIdle_phase : (s.toIdle).phase = .idle := rfl
@[simp] theorem State.toIdle_row : (s.toIdle).row = none := rfl
@[simp] theorem State.toIdle_mem : (s.toIdle).mem = s.mem := rfl
@[simp] theorem State.toIdle_memSize : (s.toIdle).memSize = s.memSize := rfl
@[simp] theorem State.toIdle_raced : (s.toIdle).raced = false := rfl
@[simp] theorem State.toIdle_epoch : (s.toIdle).epoch = s.epoch := rfl
@[simp] theorem State.toIdle_agenda : (s.toIdle).agenda = s.agenda := rfl
@[simp] theorem State.toIdle_hostData : (s.toIdle).hostData = s.hostData := rfl
@[simp] theorem State.toIdle_free : (s.toIdle).free = s.free := rfl

/-! ### succeed: Completion with success (R114). -/

@[simp] theorem State.succeed_cmd : (s.succeed).cmd = s.cmd := rfl
@[simp] theorem State.succeed_status : (s.succeed).status = { s.status with done := true } := rfl
@[simp] theorem State.succeed_irqEn : (s.succeed).irqEn = s.irqEn := rfl
@[simp] theorem State.succeed_regs : (s.succeed).regs = s.regs := rfl
@[simp] theorem State.succeed_res0 : (s.succeed).res0 = s.res0 := rfl
@[simp] theorem State.succeed_res1 : (s.succeed).res1 = s.res1 := rfl
@[simp] theorem State.succeed_res2 : (s.succeed).res2 = s.res2 := rfl
@[simp] theorem State.succeed_res3 : (s.succeed).res3 = s.res3 := rfl
@[simp] theorem State.succeed_errOffset : (s.succeed).errOffset = s.errOffset := rfl
@[simp] theorem State.succeed_errChunk : (s.succeed).errChunk = s.errChunk := rfl
@[simp] theorem State.succeed_phase : (s.succeed).phase = .idle := rfl
@[simp] theorem State.succeed_row : (s.succeed).row = none := rfl
@[simp] theorem State.succeed_mem : (s.succeed).mem = s.mem := rfl
@[simp] theorem State.succeed_memSize : (s.succeed).memSize = s.memSize := rfl
@[simp] theorem State.succeed_raced : (s.succeed).raced = false := rfl
@[simp] theorem State.succeed_epoch : (s.succeed).epoch = s.epoch := rfl
@[simp] theorem State.succeed_agenda : (s.succeed).agenda = s.agenda := rfl
@[simp] theorem State.succeed_hostData : (s.succeed).hostData = s.hostData := rfl
@[simp] theorem State.succeed_free : (s.succeed).free = s.free := rfl

/-! ### failWith: Error entry (R244). -/

@[simp] theorem State.failWith_cmd (r : Raise) : (s.failWith r).cmd = s.cmd := rfl
@[simp] theorem State.failWith_status (r : Raise) : (s.failWith r).status = { s.status with err := true, errCode := r.code.code } := rfl
@[simp] theorem State.failWith_irqEn (r : Raise) : (s.failWith r).irqEn = s.irqEn := rfl
@[simp] theorem State.failWith_regs (r : Raise) : (s.failWith r).regs = s.regs := rfl
@[simp] theorem State.failWith_res0 (r : Raise) : (s.failWith r).res0 = s.res0 := rfl
@[simp] theorem State.failWith_res1 (r : Raise) : (s.failWith r).res1 = s.res1 := rfl
@[simp] theorem State.failWith_res2 (r : Raise) : (s.failWith r).res2 = s.res2 := rfl
@[simp] theorem State.failWith_res3 (r : Raise) : (s.failWith r).res3 = s.res3 := rfl
@[simp] theorem State.failWith_errOffset (r : Raise) : (s.failWith r).errOffset = r.off := rfl
@[simp] theorem State.failWith_errChunk (r : Raise) : (s.failWith r).errChunk = r.chunk := rfl
@[simp] theorem State.failWith_phase (r : Raise) : (s.failWith r).phase = .idle := rfl
@[simp] theorem State.failWith_row (r : Raise) : (s.failWith r).row = none := rfl
@[simp] theorem State.failWith_mem (r : Raise) : (s.failWith r).mem = s.mem := rfl
@[simp] theorem State.failWith_memSize (r : Raise) : (s.failWith r).memSize = s.memSize := rfl
@[simp] theorem State.failWith_raced (r : Raise) : (s.failWith r).raced = false := rfl
@[simp] theorem State.failWith_epoch (r : Raise) : (s.failWith r).epoch = s.epoch := rfl
@[simp] theorem State.failWith_agenda (r : Raise) : (s.failWith r).agenda = s.agenda := rfl
@[simp] theorem State.failWith_hostData (r : Raise) : (s.failWith r).hostData = s.hostData := rfl
@[simp] theorem State.failWith_free (r : Raise) : (s.failWith r).free = s.free := rfl

/-! ### failFramer: Error entry of the framer commands (R146, R244). -/

@[simp] theorem State.failFramer_cmd (r : Raise) : (s.failFramer r).cmd = s.cmd := rfl
@[simp] theorem State.failFramer_status (r : Raise) : (s.failFramer r).status = { s.status with err := true, errCode := r.code.code } := rfl
@[simp] theorem State.failFramer_irqEn (r : Raise) : (s.failFramer r).irqEn = s.irqEn := rfl
@[simp] theorem State.failFramer_regs (r : Raise) : (s.failFramer r).regs = { s.regs with fr := { s.regs.fr with fail := true } } := rfl
@[simp] theorem State.failFramer_res0 (r : Raise) : (s.failFramer r).res0 = s.res0 := rfl
@[simp] theorem State.failFramer_res1 (r : Raise) : (s.failFramer r).res1 = s.res1 := rfl
@[simp] theorem State.failFramer_res2 (r : Raise) : (s.failFramer r).res2 = s.res2 := rfl
@[simp] theorem State.failFramer_res3 (r : Raise) : (s.failFramer r).res3 = s.res3 := rfl
@[simp] theorem State.failFramer_errOffset (r : Raise) : (s.failFramer r).errOffset = r.off := rfl
@[simp] theorem State.failFramer_errChunk (r : Raise) : (s.failFramer r).errChunk = r.chunk := rfl
@[simp] theorem State.failFramer_phase (r : Raise) : (s.failFramer r).phase = .idle := rfl
@[simp] theorem State.failFramer_row (r : Raise) : (s.failFramer r).row = none := rfl
@[simp] theorem State.failFramer_mem (r : Raise) : (s.failFramer r).mem = s.mem := rfl
@[simp] theorem State.failFramer_memSize (r : Raise) : (s.failFramer r).memSize = s.memSize := rfl
@[simp] theorem State.failFramer_raced (r : Raise) : (s.failFramer r).raced = false := rfl
@[simp] theorem State.failFramer_epoch (r : Raise) : (s.failFramer r).epoch = s.epoch := rfl
@[simp] theorem State.failFramer_agenda (r : Raise) : (s.failFramer r).agenda = s.agenda := rfl
@[simp] theorem State.failFramer_hostData (r : Raise) : (s.failFramer r).hostData = s.hostData := rfl
@[simp] theorem State.failFramer_free (r : Raise) : (s.failFramer r).free = s.free := rfl

/-! ### accept: Acceptance (R110). -/

@[simp] theorem State.accept_cmd (w : Word) : (s.accept w).cmd = w := rfl
@[simp] theorem State.accept_status (w : Word) : (s.accept w).status = { s.status with done := false, err := false, errCode := 0 } := rfl
@[simp] theorem State.accept_irqEn (w : Word) : (s.accept w).irqEn = s.irqEn := rfl
@[simp] theorem State.accept_regs (w : Word) : (s.accept w).regs = s.regs := rfl
@[simp] theorem State.accept_res0 (w : Word) : (s.accept w).res0 = 0 := rfl
@[simp] theorem State.accept_res1 (w : Word) : (s.accept w).res1 = 0 := rfl
@[simp] theorem State.accept_res2 (w : Word) : (s.accept w).res2 = 0 := rfl
@[simp] theorem State.accept_res3 (w : Word) : (s.accept w).res3 = 0 := rfl
@[simp] theorem State.accept_errOffset (w : Word) : (s.accept w).errOffset = 0 := rfl
@[simp] theorem State.accept_errChunk (w : Word) : (s.accept w).errChunk = 0 := rfl
@[simp] theorem State.accept_phase (w : Word) : (s.accept w).phase = .busy ⟨w, s.regs⟩ := rfl
@[simp] theorem State.accept_row (w : Word) : (s.accept w).row = none := rfl
@[simp] theorem State.accept_mem (w : Word) : (s.accept w).mem = s.mem := rfl
@[simp] theorem State.accept_memSize (w : Word) : (s.accept w).memSize = s.memSize := rfl
@[simp] theorem State.accept_raced (w : Word) : (s.accept w).raced = false := rfl
@[simp] theorem State.accept_epoch (w : Word) : (s.accept w).epoch = s.epoch := rfl
@[simp] theorem State.accept_agenda (w : Word) : (s.accept w).agenda = s.agenda := rfl
@[simp] theorem State.accept_hostData (w : Word) : (s.accept w).hostData = s.hostData := rfl
@[simp] theorem State.accept_free (w : Word) : (s.accept w).free = s.free := rfl

/-! ### resetRegisters: Reset of the registers (R50, R270). -/

@[simp] theorem State.resetRegisters_cmd : (s.resetRegisters).cmd = 0 := rfl
@[simp] theorem State.resetRegisters_status : (s.resetRegisters).status = .reset := rfl
@[simp] theorem State.resetRegisters_irqEn : (s.resetRegisters).irqEn = false := rfl
@[simp] theorem State.resetRegisters_regs : (s.resetRegisters).regs = .reset := rfl
@[simp] theorem State.resetRegisters_res0 : (s.resetRegisters).res0 = 0 := rfl
@[simp] theorem State.resetRegisters_res1 : (s.resetRegisters).res1 = 0 := rfl
@[simp] theorem State.resetRegisters_res2 : (s.resetRegisters).res2 = 0 := rfl
@[simp] theorem State.resetRegisters_res3 : (s.resetRegisters).res3 = 0 := rfl
@[simp] theorem State.resetRegisters_errOffset : (s.resetRegisters).errOffset = 0 := rfl
@[simp] theorem State.resetRegisters_errChunk : (s.resetRegisters).errChunk = 0 := rfl
@[simp] theorem State.resetRegisters_phase : (s.resetRegisters).phase = .idle := rfl
@[simp] theorem State.resetRegisters_row : (s.resetRegisters).row = none := rfl
@[simp] theorem State.resetRegisters_mem : (s.resetRegisters).mem = s.mem := rfl
@[simp] theorem State.resetRegisters_memSize : (s.resetRegisters).memSize = s.memSize := rfl
@[simp] theorem State.resetRegisters_raced : (s.resetRegisters).raced = false := rfl
@[simp] theorem State.resetRegisters_epoch : (s.resetRegisters).epoch = s.epoch := rfl
@[simp] theorem State.resetRegisters_agenda : (s.resetRegisters).agenda = s.agenda := rfl
@[simp] theorem State.resetRegisters_hostData : (s.resetRegisters).hostData = s.hostData := rfl
@[simp] theorem State.resetRegisters_free : (s.resetRegisters).free = s.free := rfl

/-! ### scramble: A range of unspecified bytes (R73, R271). -/

@[simp] theorem State.scramble_cmd (r : Range) : (s.scramble r).cmd = s.cmd := rfl
@[simp] theorem State.scramble_status (r : Range) : (s.scramble r).status = s.status := rfl
@[simp] theorem State.scramble_irqEn (r : Range) : (s.scramble r).irqEn = s.irqEn := rfl
@[simp] theorem State.scramble_regs (r : Range) : (s.scramble r).regs = s.regs := rfl
@[simp] theorem State.scramble_res0 (r : Range) : (s.scramble r).res0 = s.res0 := rfl
@[simp] theorem State.scramble_res1 (r : Range) : (s.scramble r).res1 = s.res1 := rfl
@[simp] theorem State.scramble_res2 (r : Range) : (s.scramble r).res2 = s.res2 := rfl
@[simp] theorem State.scramble_res3 (r : Range) : (s.scramble r).res3 = s.res3 := rfl
@[simp] theorem State.scramble_errOffset (r : Range) : (s.scramble r).errOffset = s.errOffset := rfl
@[simp] theorem State.scramble_errChunk (r : Range) : (s.scramble r).errChunk = s.errChunk := rfl
@[simp] theorem State.scramble_phase (r : Range) : (s.scramble r).phase = s.phase := rfl
@[simp] theorem State.scramble_row (r : Range) : (s.scramble r).row = s.row := rfl
@[simp] theorem State.scramble_memSize (r : Range) : (s.scramble r).memSize = s.memSize := rfl
@[simp] theorem State.scramble_raced (r : Range) : (s.scramble r).raced = s.raced := rfl
@[simp] theorem State.scramble_epoch (r : Range) : (s.scramble r).epoch = s.epoch := rfl
@[simp] theorem State.scramble_agenda (r : Range) : (s.scramble r).agenda = s.agenda := rfl
@[simp] theorem State.scramble_hostData (r : Range) : (s.scramble r).hostData = s.hostData := rfl
@[simp] theorem State.scramble_free (r : Range) : (s.scramble r).free = s.free + (r.clip s.memSize).len := rfl

/-! ### clearStatus: CTRL.CLR (R24). -/

@[simp] theorem State.clearStatus_cmd : (s.clearStatus).cmd = s.cmd := rfl
@[simp] theorem State.clearStatus_status : (s.clearStatus).status = .reset := rfl
@[simp] theorem State.clearStatus_irqEn : (s.clearStatus).irqEn = s.irqEn := rfl
@[simp] theorem State.clearStatus_regs : (s.clearStatus).regs = s.regs := rfl
@[simp] theorem State.clearStatus_res0 : (s.clearStatus).res0 = s.res0 := rfl
@[simp] theorem State.clearStatus_res1 : (s.clearStatus).res1 = s.res1 := rfl
@[simp] theorem State.clearStatus_res2 : (s.clearStatus).res2 = s.res2 := rfl
@[simp] theorem State.clearStatus_res3 : (s.clearStatus).res3 = s.res3 := rfl
@[simp] theorem State.clearStatus_errOffset : (s.clearStatus).errOffset = s.errOffset := rfl
@[simp] theorem State.clearStatus_errChunk : (s.clearStatus).errChunk = s.errChunk := rfl
@[simp] theorem State.clearStatus_phase : (s.clearStatus).phase = s.phase := rfl
@[simp] theorem State.clearStatus_row : (s.clearStatus).row = s.row := rfl
@[simp] theorem State.clearStatus_mem : (s.clearStatus).mem = s.mem := rfl
@[simp] theorem State.clearStatus_memSize : (s.clearStatus).memSize = s.memSize := rfl
@[simp] theorem State.clearStatus_raced : (s.clearStatus).raced = s.raced := rfl
@[simp] theorem State.clearStatus_epoch : (s.clearStatus).epoch = s.epoch := rfl
@[simp] theorem State.clearStatus_agenda : (s.clearStatus).agenda = s.agenda := rfl
@[simp] theorem State.clearStatus_hostData : (s.clearStatus).hostData = s.hostData := rfl
@[simp] theorem State.clearStatus_free : (s.clearStatus).free = s.free := rfl

/-! ### setLost: A dropped write (R44). -/

@[simp] theorem State.setLost_cmd : (s.setLost).cmd = s.cmd := rfl
@[simp] theorem State.setLost_status : (s.setLost).status = { s.status with lost := true } := rfl
@[simp] theorem State.setLost_irqEn : (s.setLost).irqEn = s.irqEn := rfl
@[simp] theorem State.setLost_regs : (s.setLost).regs = s.regs := rfl
@[simp] theorem State.setLost_res0 : (s.setLost).res0 = s.res0 := rfl
@[simp] theorem State.setLost_res1 : (s.setLost).res1 = s.res1 := rfl
@[simp] theorem State.setLost_res2 : (s.setLost).res2 = s.res2 := rfl
@[simp] theorem State.setLost_res3 : (s.setLost).res3 = s.res3 := rfl
@[simp] theorem State.setLost_errOffset : (s.setLost).errOffset = s.errOffset := rfl
@[simp] theorem State.setLost_errChunk : (s.setLost).errChunk = s.errChunk := rfl
@[simp] theorem State.setLost_phase : (s.setLost).phase = s.phase := rfl
@[simp] theorem State.setLost_row : (s.setLost).row = s.row := rfl
@[simp] theorem State.setLost_mem : (s.setLost).mem = s.mem := rfl
@[simp] theorem State.setLost_memSize : (s.setLost).memSize = s.memSize := rfl
@[simp] theorem State.setLost_raced : (s.setLost).raced = s.raced := rfl
@[simp] theorem State.setLost_epoch : (s.setLost).epoch = s.epoch := rfl
@[simp] theorem State.setLost_agenda : (s.setLost).agenda = s.agenda := rfl
@[simp] theorem State.setLost_hostData : (s.setLost).hostData = s.hostData := rfl
@[simp] theorem State.setLost_free : (s.setLost).free = s.free := rfl

/-! ### answerHost: What the host reads (log 5). -/

@[simp] theorem State.answerHost_cmd (v : Word) : (s.answerHost v).cmd = s.cmd := rfl
@[simp] theorem State.answerHost_status (v : Word) : (s.answerHost v).status = s.status := rfl
@[simp] theorem State.answerHost_irqEn (v : Word) : (s.answerHost v).irqEn = s.irqEn := rfl
@[simp] theorem State.answerHost_regs (v : Word) : (s.answerHost v).regs = s.regs := rfl
@[simp] theorem State.answerHost_res0 (v : Word) : (s.answerHost v).res0 = s.res0 := rfl
@[simp] theorem State.answerHost_res1 (v : Word) : (s.answerHost v).res1 = s.res1 := rfl
@[simp] theorem State.answerHost_res2 (v : Word) : (s.answerHost v).res2 = s.res2 := rfl
@[simp] theorem State.answerHost_res3 (v : Word) : (s.answerHost v).res3 = s.res3 := rfl
@[simp] theorem State.answerHost_errOffset (v : Word) : (s.answerHost v).errOffset = s.errOffset := rfl
@[simp] theorem State.answerHost_errChunk (v : Word) : (s.answerHost v).errChunk = s.errChunk := rfl
@[simp] theorem State.answerHost_phase (v : Word) : (s.answerHost v).phase = s.phase := rfl
@[simp] theorem State.answerHost_row (v : Word) : (s.answerHost v).row = s.row := rfl
@[simp] theorem State.answerHost_mem (v : Word) : (s.answerHost v).mem = s.mem := rfl
@[simp] theorem State.answerHost_memSize (v : Word) : (s.answerHost v).memSize = s.memSize := rfl
@[simp] theorem State.answerHost_raced (v : Word) : (s.answerHost v).raced = s.raced := rfl
@[simp] theorem State.answerHost_epoch (v : Word) : (s.answerHost v).epoch = s.epoch := rfl
@[simp] theorem State.answerHost_agenda (v : Word) : (s.answerHost v).agenda = s.agenda := rfl
@[simp] theorem State.answerHost_hostData (v : Word) : (s.answerHost v).hostData = v := rfl
@[simp] theorem State.answerHost_free (v : Word) : (s.answerHost v).free = s.free := rfl

/-! ### answerFree: A read of any value (R45). -/

@[simp] theorem State.answerFree_cmd : (s.answerFree).cmd = s.cmd := rfl
@[simp] theorem State.answerFree_status : (s.answerFree).status = s.status := rfl
@[simp] theorem State.answerFree_irqEn : (s.answerFree).irqEn = s.irqEn := rfl
@[simp] theorem State.answerFree_regs : (s.answerFree).regs = s.regs := rfl
@[simp] theorem State.answerFree_res0 : (s.answerFree).res0 = s.res0 := rfl
@[simp] theorem State.answerFree_res1 : (s.answerFree).res1 = s.res1 := rfl
@[simp] theorem State.answerFree_res2 : (s.answerFree).res2 = s.res2 := rfl
@[simp] theorem State.answerFree_res3 : (s.answerFree).res3 = s.res3 := rfl
@[simp] theorem State.answerFree_errOffset : (s.answerFree).errOffset = s.errOffset := rfl
@[simp] theorem State.answerFree_errChunk : (s.answerFree).errChunk = s.errChunk := rfl
@[simp] theorem State.answerFree_phase : (s.answerFree).phase = s.phase := rfl
@[simp] theorem State.answerFree_row : (s.answerFree).row = s.row := rfl
@[simp] theorem State.answerFree_mem : (s.answerFree).mem = s.mem := rfl
@[simp] theorem State.answerFree_memSize : (s.answerFree).memSize = s.memSize := rfl
@[simp] theorem State.answerFree_raced : (s.answerFree).raced = s.raced := rfl
@[simp] theorem State.answerFree_epoch : (s.answerFree).epoch = s.epoch := rfl
@[simp] theorem State.answerFree_agenda : (s.answerFree).agenda = s.agenda := rfl
@[simp] theorem State.answerFree_hostData : (s.answerFree).hostData = Config.freeWord s.free := rfl
@[simp] theorem State.answerFree_free : (s.answerFree).free = s.free + 1 := rfl

/-! ### dropEvent: The agenda's first event is taken off (log 3). -/

@[simp] theorem State.dropEvent_cmd : (s.dropEvent).cmd = s.cmd := rfl
@[simp] theorem State.dropEvent_status : (s.dropEvent).status = s.status := rfl
@[simp] theorem State.dropEvent_irqEn : (s.dropEvent).irqEn = s.irqEn := rfl
@[simp] theorem State.dropEvent_regs : (s.dropEvent).regs = s.regs := rfl
@[simp] theorem State.dropEvent_res0 : (s.dropEvent).res0 = s.res0 := rfl
@[simp] theorem State.dropEvent_res1 : (s.dropEvent).res1 = s.res1 := rfl
@[simp] theorem State.dropEvent_res2 : (s.dropEvent).res2 = s.res2 := rfl
@[simp] theorem State.dropEvent_res3 : (s.dropEvent).res3 = s.res3 := rfl
@[simp] theorem State.dropEvent_errOffset : (s.dropEvent).errOffset = s.errOffset := rfl
@[simp] theorem State.dropEvent_errChunk : (s.dropEvent).errChunk = s.errChunk := rfl
@[simp] theorem State.dropEvent_phase : (s.dropEvent).phase = s.phase := rfl
@[simp] theorem State.dropEvent_row : (s.dropEvent).row = s.row := rfl
@[simp] theorem State.dropEvent_mem : (s.dropEvent).mem = s.mem := rfl
@[simp] theorem State.dropEvent_memSize : (s.dropEvent).memSize = s.memSize := rfl
@[simp] theorem State.dropEvent_raced : (s.dropEvent).raced = s.raced := rfl
@[simp] theorem State.dropEvent_epoch : (s.dropEvent).epoch = s.epoch := rfl
@[simp] theorem State.dropEvent_agenda : (s.dropEvent).agenda = s.agenda.tail := rfl
@[simp] theorem State.dropEvent_hostData : (s.dropEvent).hostData = s.hostData := rfl
@[simp] theorem State.dropEvent_free : (s.dropEvent).free = s.free := rfl

end Sys2Proof.Machine
end

