-- ==== Sys2Proof/Laws/Commands.lean ====
section
/-!
SUPPORT. What a command can do at all, said once for every command: raise an error, or complete with one written byte
sequence inside its write set.
-/

namespace Sys2Proof.Machine

/-- The three parser commands, whose errors set FR_STATE.FAIL (41_chunk_framer.md R146). -/
def Instr.isFramer (i : Instr) : Bool :=
  match i with
  | .frStart | .frNext | .frFinish => true
  | _ => false

/-- The error entry of a command (60_exceptions.md R244). -/
def State.failAs (s : State) (i : Instr) (r : Raise) : State := if Instr.isFramer i then s.failFramer r else s.failWith r

/-- A byte sequence that a command may write: none, or one that lies in a range of its write set and in the memory. -/
def WriteAllowed (i : Instr) (o : OperandRegs) (size a n : Nat) : Prop :=
  n = 0 ∨ ((∃ r ∈ writeSet i o, r.start ≤ a ∧ a + n ≤ r.start + r.len) ∧ a + n ≤ size)

/-- A success of command `i` in state `s`. -/
def Success (i : Instr) (s t : State) : Prop :=
  ∃ a bs g r0 r1 r2 r3, t = s.completed (Memory.writeBytes s.mem a bs) g r0 r1 r2 r3
    ∧ WriteAllowed i s.operands s.memSize a bs.length

theorem success_of_nothing_written {i : Instr} {s : State} {g : OperandRegs} {r0 r1 r2 r3 : Word} :
    Success i s (s.completed s.mem g r0 r1 r2 r3) :=
  ⟨0, [], g, r0, r1, r2, r3, rfl, .inl rfl⟩

theorem Success.of_write {i : Instr} {s : State} {a : Nat} {bs : List Byte} {g : OperandRegs} {r0 r1 r2 r3 : Word}
    {r : Range} (hm : r ∈ writeSet i s.operands) (ha : r.start = a) (hl : r.len = bs.length)
    (hb : r.inBounds s.memSize = true) :
    Success i s (s.completed (Memory.writeBytes s.mem a bs) g r0 r1 r2 r3) := by
  refine ⟨a, bs, g, r0, r1, r2, r3, rfl, ?_⟩
  rcases Range.inBounds_iff.mp hb with h | h
  · exact .inl (by omega)
  · exact .inr ⟨⟨r, hm, by omega, by omega⟩, by omega⟩

/-- The ranges of a command whose checks hold are in bounds. -/
theorem inBounds_of_rangeChecks {i : Instr} {o : OperandRegs} {s : State} (h : allHold (rangeChecks i o s)) {r : Range}
    (hr : r ∈ readSet i o s ∨ r ∈ writeSet i o) : r.inBounds s.memSize = true :=
  allHold_boundsChecks.mp (allHold_append.mp h).1 r (List.mem_append.mpr hr)

/-- What command `i` can do in state `s`. -/
abbrev CommandDoes (i : Instr) (s t : State) : Prop := (∃ r, t = s.failAs i r) ∨ Success i s t

variable {s t : State}

theorem execNop_does (h : execNop s = .next t) : CommandDoes .nop s t := by
  simp only [execNop, Host.Outcome.next.injEq] at h
  exact .inr (h ▸ success_of_nothing_written (r0 := s.res0) (r1 := s.res1) (r2 := s.res2) (r3 := s.res3))

theorem execGeom_does (h : execGeom s = .next t) : CommandDoes .geom s t := by
  rcases conclude_next h with ⟨r, -, rfl⟩ | ⟨-, h⟩
  · exact .inl ⟨r, rfl⟩
  · simp only [Host.Outcome.next.injEq] at h
    exact .inr (h ▸ success_of_nothing_written)

theorem execImglen_does (h : execImglen s = .next t) : CommandDoes .imglen s t := by
  rcases conclude_next h with ⟨r, -, rfl⟩ | ⟨-, h⟩
  · exact .inl ⟨r, rfl⟩
  · simp only [Host.Outcome.next.injEq] at h
    exact .inr (h ▸ success_of_nothing_written)

theorem execA7Dims_does (h : execA7Dims s = .next t) : CommandDoes .a7Dims s t := by
  rcases conclude_next h with ⟨r, -, rfl⟩ | ⟨-, h⟩
  · exact .inl ⟨r, rfl⟩
  · simp only [Host.Outcome.next.injEq] at h
    exact .inr (h ▸ success_of_nothing_written)

theorem execA7Map_does (h : execA7Map s = .next t) : CommandDoes .a7Map s t := by
  rcases conclude_next h with ⟨r, -, rfl⟩ | ⟨-, h⟩
  · exact .inl ⟨r, rfl⟩
  · simp only [Host.Outcome.next.injEq] at h
    exact .inr (h ▸ success_of_nothing_written)

theorem execA7Inv_does (h : execA7Inv s = .next t) : CommandDoes .a7Inv s t := by
  rcases conclude_next h with ⟨r, -, rfl⟩ | ⟨-, h⟩
  · exact .inl ⟨r, rfl⟩
  · simp only [Host.Outcome.next.injEq] at h
    exact .inr (h ▸ success_of_nothing_written)

/-- The success of CRC_UPDATE, as the state it leaves. -/
theorem crcUpdate_completed (c r : Word) :
    (({ s with regs := { s.regs with crc := c } } : State).withResults r 0 0 0).succeed
      = s.completed s.mem { s.regs with crc := c } r 0 0 0 := rfl

theorem execCrcUpdate_does {ci cf : Bool} (h : execCrcUpdate ci cf s = .next t) :
    CommandDoes (.crcUpdate ci cf) s t := by
  unfold execCrcUpdate at h
  rcases conclude_next h with ⟨r, -, rfl⟩ | ⟨-, h⟩
  · exact .inl ⟨r, rfl⟩
  · simp only [Host.Outcome.next.injEq] at h
    subst h
    rw [crcUpdate_completed]
    exact .inr success_of_nothing_written

/-- The success of a row or image command, as the state it leaves. -/
theorem write_completed (a : Nat) (bs : List Byte) (r0 r1 r2 r3 : Word) :
    ((s.memWrite a bs).withResults r0 r1 r2 r3).succeed
      = s.completed (Memory.writeBytes s.mem a bs) s.regs r0 r1 r2 r3 := rfl

theorem execUnpackRow_does (h : execUnpackRow s = .next t) : CommandDoes .unpackRow s t := by
  rcases conclude_next h with ⟨r, -, rfl⟩ | ⟨hc, h⟩
  · exact .inl ⟨r, rfl⟩
  · simp only [Host.Outcome.next.injEq] at h
    have hr := (allHold_append.mp hc).2
    subst h
    rw [write_completed]
    refine .inr (Success.of_write (i := .unpackRow) (List.mem_singleton.mpr rfl) rfl ?_
      (inBounds_of_rangeChecks hr (.inr (List.mem_singleton.mpr rfl))))
    rw [slotBytes_sampleWidth, unpackSamples_length]

theorem execPackRow_does (h : execPackRow s = .next t) : CommandDoes .packRow s t := by
  rcases conclude_next h with ⟨r, -, rfl⟩ | ⟨hc, h⟩
  · exact .inl ⟨r, rfl⟩
  · simp only [Host.Outcome.next.injEq] at h
    have hc := (allHold_append.mp hc).1
    have hv : s.operands.hdr.fmtValid = true := hc _ (List.mem_append_left _ (List.mem_cons_self ..))
    subst h
    rw [write_completed]
    refine .inr (Success.of_write (i := .packRow) (List.mem_singleton.mpr rfl) rfl ?_
      (inBounds_of_rangeChecks (allHold_append.mp hc).2 (.inr (List.mem_singleton.mpr rfl))))
    exact (packSamples_length hv (by simp)).symm

theorem execUnfilterRow_does {zp : Bool} (h : execUnfilterRow zp s = .next t) : CommandDoes (.unfilterRow zp) s t := by
  rcases conclude_next h with ⟨r, -, rfl⟩ | ⟨hc, h⟩
  · exact .inl ⟨r, rfl⟩
  · simp only [Host.Outcome.next.injEq] at h
    have hr := (allHold_append.mp (allHold_append.mp hc).1).2
    subst h
    rw [write_completed]
    refine .inr (Success.of_write (i := .unfilterRow zp) (List.mem_singleton.mpr rfl) rfl ?_
      (inBounds_of_rangeChecks hr (.inr (List.mem_singleton.mpr rfl))))
    simp

theorem execFilterRow_does {ft : BitVec 3} {zp : Bool} (h : execFilterRow ft zp s = .next t) :
    CommandDoes (.filterRow ft zp) s t := by
  rcases conclude_next h with ⟨r, -, rfl⟩ | ⟨hc, h⟩
  · exact .inl ⟨r, rfl⟩
  · simp only [Host.Outcome.next.injEq] at h
    have hr := (allHold_append.mp (allHold_append.mp hc).1).2
    subst h
    rw [write_completed]
    refine .inr (Success.of_write (i := .filterRow ft zp) (List.mem_singleton.mpr rfl) rfl ?_
      (inBounds_of_rangeChecks hr (.inr (List.mem_singleton.mpr rfl))))
    simp

theorem execUnfilterImage_does (h : execUnfilterImage s = .next t) : CommandDoes .unfilterImage s t := by
  rcases conclude_next h with ⟨r, -, rfl⟩ | ⟨hc, h⟩
  · exact .inl ⟨r, rfl⟩
  · simp only [Host.Outcome.next.injEq] at h
    have hr := (allHold_append.mp (allHold_append.mp hc).1).2
    subst h
    rw [State.unfilterResults, write_completed]
    refine .inr (Success.of_write (i := .unfilterImage) (List.mem_singleton.mpr rfl) rfl ?_
      (inBounds_of_rangeChecks hr (.inr (List.mem_singleton.mpr rfl))))
    exact (unfilterStream_length _ _ _ (by simp)).symm

theorem execFilterImage_does {ft : BitVec 3} (h : execFilterImage ft s = .next t) :
    CommandDoes (.filterImage ft) s t := by
  rcases conclude_next h with ⟨r, -, rfl⟩ | ⟨hc, h⟩
  · exact .inl ⟨r, rfl⟩
  · simp only [Host.Outcome.next.injEq] at h
    have hr := (allHold_append.mp hc).2
    subst h
    rw [State.filterResults, write_completed]
    refine .inr (Success.of_write (i := .filterImage ft) (List.mem_singleton.mpr rfl) rfl ?_
      (inBounds_of_rangeChecks hr (.inr (List.mem_singleton.mpr rfl))))
    exact (filterStream_length _ _ _ _ (by simp)).symm

theorem execFrStart_does (h : execFrStart s = .next t) : CommandDoes .frStart s t := by
  rcases conclude_next h with ⟨r, -, rfl⟩ | ⟨-, h⟩
  · exact .inl ⟨r, rfl⟩
  · simp only [Host.Outcome.next.injEq] at h
    exact .inr (h ▸ success_of_nothing_written)

theorem execFrNext_does (h : execFrNext s = .next t) : CommandDoes .frNext s t := by
  rcases conclude_next h with ⟨r, -, rfl⟩ | ⟨-, h⟩
  · exact .inl ⟨r, rfl⟩
  · simp only [Host.Outcome.next.injEq] at h
    exact .inr (h ▸ success_of_nothing_written)

theorem execFrFinish_does (h : execFrFinish s = .next t) : CommandDoes .frFinish s t := by
  rcases conclude_next h with ⟨r, -, rfl⟩ | ⟨-, h⟩
  · exact .inl ⟨r, rfl⟩
  · simp only [Host.Outcome.next.injEq] at h
    exact .inr (h ▸ success_of_nothing_written)

theorem execEmStart_does (h : execEmStart s = .next t) : CommandDoes .emStart s t := by
  rcases conclude_next h with ⟨r, -, rfl⟩ | ⟨hc, h⟩
  · exact .inl ⟨r, rfl⟩
  · simp only [Host.Outcome.next.injEq] at h
    have hcap : 8 ≤ s.operands.arg1.toNat := by
      have := hc ⟨decide (8 ≤ s.operands.arg1.toNat), raise .capacity⟩ (by simp [emStartChecks])
      simpa using this
    have hb := allHold_boundsChecks.mp (allHold_append.mp hc).2 _ (List.mem_singleton.mpr rfl)
    have := Range.inBounds_iff.mp hb
    refine .inr (h ▸ ⟨s.operands.arg0.toNat, pngSignature, _, _, _, _, _, rfl, .inr ⟨⟨_, List.mem_singleton.mpr rfl, ?_⟩, ?_⟩⟩)
    · exact ⟨le_rfl, le_rfl⟩
    · simp only [pngSignature, List.length_cons, List.length_nil] at *
      omega

/-- An emit command whose checks hold has its range in the memory. -/
theorem inBounds_of_emitBounds {o : OperandRegs} {n : Nat} {chunk : Word} {cs : List Check} (hc : allHold cs)
    (hs : emitBounds o s n chunk ⊆ cs) : (Range.mk o.emCursor.toNat n).inBounds s.memSize = true :=
  allHold_boundsChecks.mp (fun c hm => hc c (hs hm)) _ (List.mem_singleton.mpr rfl)

/-- The success of an emit command, as the state it leaves. -/
theorem emit_completed (o : OperandRegs) (ty bs : List Byte) (r0 r1 : Word) :
    ((s.emit o ty bs).withResults r0 r1 0 0).succeed = s.completed (Memory.writeBytes s.mem o.emCursor.toNat bs)
      { s.regs with
        em := { o.em with order := o.em.order.update ty }
        emCursor := u32 (o.emCursor.toNat + bs.length) } r0 r1 0 0 := rfl

theorem emitChunk_completed (o : OperandRegs) (ty p : List Byte) :
    (s.emitChunk o ty p).succeed = s.completed (Memory.writeBytes s.mem o.emCursor.toNat (chunkBytes ty p))
      { s.regs with
        em := { o.em with order := o.em.order.update ty }
        emCursor := u32 (o.emCursor.toNat + (chunkBytes ty p).length)
        hdr := headerAfter s.regs.hdr ty p } (u32 (12 + p.length)) (crc32 (ty ++ p)) 0 0 := rfl

theorem execEmChunk_does (h : execEmChunk s = .next t) : CommandDoes .emChunk s t := by
  rcases conclude_next h with ⟨r, -, rfl⟩ | ⟨hc, h⟩
  · exact .inl ⟨r, rfl⟩
  · simp only [Host.Outcome.next.injEq] at h
    subst h
    have hb := inBounds_of_emitBounds (s := s) (o := s.operands) (n := 12 + s.operands.arg2.toNat)
      (chunk := s.operands.arg0) hc (fun c hm => by simp [emChunkChecks, hm])
    rw [emitChunk_completed]
    refine .inr (Success.of_write (i := .emChunk) (List.mem_singleton.mpr rfl) rfl ?_ hb)
    rw [chunkBytes_length rfl, State.memRead_length]

theorem execEmIhdr_does (h : execEmIhdr s = .next t) : CommandDoes .emIhdr s t := by
  rcases conclude_next h with ⟨r, -, rfl⟩ | ⟨hc, h⟩
  · exact .inl ⟨r, rfl⟩
  · simp only [Host.Outcome.next.injEq] at h
    subst h
    have hb := inBounds_of_emitBounds (s := s) (o := s.operands) (n := 25)
      (chunk := packType tIHDR) hc (fun c hm => by simp [emIhdrChecks, hm])
    rw [emitChunk_completed]
    refine .inr (Success.of_write (i := .emIhdr) (List.mem_singleton.mpr rfl) rfl ?_ hb)
    rw [chunkBytes_length rfl, headerPayload_length]

theorem execEmIdat_does (h : execEmIdat s = .next t) : CommandDoes .emIdat s t := by
  rcases conclude_next h with ⟨r, -, rfl⟩ | ⟨hc, h⟩
  · exact .inl ⟨r, rfl⟩
  · simp only [Host.Outcome.next.injEq] at h
    subst h
    have hb := inBounds_of_emitBounds (s := s) (o := s.operands) (n := 12 * idatChunks s.operands.arg2.toNat s.operands.idatMax.toNat + s.operands.arg2.toNat)
      (chunk := packType tIDAT) hc (fun c hm => by simp [emIdatChecks, hm])
    have hm : s.operands.idatMax ≠ 0 := by
      have := hc ⟨s.operands.idatMax != 0, argRaise .argRange (packType tIDAT)⟩ (by simp [emIdatChecks])
      simpa using this
    rw [emit_completed]
    refine .inr (Success.of_write (i := .emIdat) (List.mem_singleton.mpr rfl) rfl ?_ hb)
    rw [idatRun_length (by simpa [BitVec.toNat_eq] using hm), State.memRead_length]

theorem execEmIend_does (h : execEmIend s = .next t) : CommandDoes .emIend s t := by
  rcases conclude_next h with ⟨r, -, rfl⟩ | ⟨hc, h⟩
  · exact .inl ⟨r, rfl⟩
  · simp only [Host.Outcome.next.injEq] at h
    subst h
    have hb := inBounds_of_emitBounds (s := s) (o := s.operands) (n := 12)
      (chunk := packType tIEND) hc (fun c hm => by simp [emIendChecks, hm])
    rw [emit_completed]
    exact .inr (Success.of_write (i := .emIend) (List.mem_singleton.mpr rfl) rfl rfl hb)

/-- Everything a command can do (R113, R114): its error entry, or its success. -/
theorem exec_does {i : Instr} (hi : ∀ ty, i ≠ filterInstr ty) (h : exec i s = .next t) : CommandDoes i s t := by
  cases i with
  | nop => exact execNop_does h
  | unfilterRow zp => exact execUnfilterRow_does h
  | filterRow ft zp => exact execFilterRow_does h
  | unfilterImage => exact execUnfilterImage_does h
  | filterImage ft => exact execFilterImage_does h
  | geom => exact execGeom_does h
  | imglen => exact execImglen_does h
  | unpackRow => exact execUnpackRow_does h
  | packRow => exact execPackRow_does h
  | a7Dims => exact execA7Dims_does h
  | a7Map => exact execA7Map_does h
  | a7Inv => exact execA7Inv_does h
  | crcUpdate ci cf => exact execCrcUpdate_does h
  | frStart => exact execFrStart_does h
  | frNext => exact execFrNext_does h
  | frFinish => exact execFrFinish_does h
  | emStart => exact execEmStart_does h
  | emChunk => exact execEmChunk_does h
  | emIhdr => exact execEmIhdr_does h
  | emIdat => exact execEmIdat_does h
  | emIend => exact execEmIend_does h
  | filterTypeNone => exact absurd rfl (hi .none)
  | filterTypeSub => exact absurd rfl (hi .sub)
  | filterTypeUp => exact absurd rfl (hi .up)
  | filterTypeAverage => exact absurd rfl (hi .average)
  | filterTypePaeth => exact absurd rfl (hi .paeth)

/-- Every filter-type byte runs the one scanline operation (R92). -/
theorem exec_filterInstr (ty : FilterType) (s : State) : exec (filterInstr ty) s = filterScanline ty s := by
  cases ty <;> rfl

/-- A walk that goes on has fewer moves left. -/
theorem RowWalk.movesLeft_advance {v w : RowWalk} {used made : Nat} {row : List Byte} (h : w.advance used made row = some v) :
    v.movesLeft < w.movesLeft := by
  simp only [RowWalk.advance] at h
  split at h
  · obtain rfl := Option.some.inj h
    simp only [RowWalk.movesLeft]
    omega
  · split at h
    · simp at h
    · rename_i hr
      obtain rfl := Option.some.inj h
      simp only [RowWalk.movesLeft, hr, List.map_cons, List.sum_cons]
      omega

/-- A command whose passed checks go on always answers a next state. -/
theorem conclude_answers (cs : List Check) (f : Raise → State) (u : State) : ∃ t, conclude cs f (.next u) = .next t := by
  unfold conclude
  split
  · exact ⟨_, rfl⟩
  · exact ⟨_, rfl⟩

/-- No command stops the machine, whatever the state (R115). -/
theorem exec_answers {i : Instr} (hi : ∀ ty, i ≠ filterInstr ty) (s : State) : ∃ t, exec i s = .next t := by
  cases i with
  | nop => exact ⟨_, rfl⟩
  | filterTypeNone => exact absurd rfl (hi .none)
  | filterTypeSub => exact absurd rfl (hi .sub)
  | filterTypeUp => exact absurd rfl (hi .up)
  | filterTypeAverage => exact absurd rfl (hi .average)
  | filterTypePaeth => exact absurd rfl (hi .paeth)
  | _ => exact conclude_answers _ _ _

end Sys2Proof.Machine
end

