-- ==== Sys2Proof/Laws/PerInstr.lean ====
section
/-!
SUPPORT. Per instruction: the encoding of every instruction, well-formed or not, lies in its row of
spec/opcode_table.json (its width, and the bits its mask fixes).
-/

namespace Sys2Proof.Laws.TableRow

/-- The width of an encoded instruction in bits, and its bits. -/
def bits (e : Encoded) : Nat × Nat :=
  match e with
  | .command w => (32, w.toNat)
  | .filterByte b => (8, b.toNat)

/-- The row of spec/opcode_table.json: width, mask, match. -/
def row (i : Instr) : Nat × Nat × Nat :=
  match i with
  | .nop => (32, 0xFFFFFFFF, 0x00000000)
  | .unfilterRow _ => (32, 0xFFFFF7FF, 0x00000001)
  | .filterRow _ _ => (32, 0xFFFFF0FF, 0x00000002)
  | .unfilterImage => (32, 0xFFFFFFFF, 0x00000003)
  | .filterImage _ => (32, 0xFFFFF8FF, 0x00000004)
  | .geom => (32, 0xFFFFFFFF, 0x00000008)
  | .imglen => (32, 0xFFFFFFFF, 0x00000009)
  | .unpackRow => (32, 0xFFFFFFFF, 0x0000000A)
  | .packRow => (32, 0xFFFFFFFF, 0x0000000B)
  | .a7Dims => (32, 0xFFFFFFFF, 0x00000010)
  | .a7Map => (32, 0xFFFFFFFF, 0x00000011)
  | .a7Inv => (32, 0xFFFFFFFF, 0x00000012)
  | .crcUpdate _ _ => (32, 0xFFFFCFFF, 0x00000018)
  | .frStart => (32, 0xFFFFFFFF, 0x00000020)
  | .frNext => (32, 0xFFFFFFFF, 0x00000021)
  | .frFinish => (32, 0xFFFFFFFF, 0x00000022)
  | .emStart => (32, 0xFFFFFFFF, 0x00000028)
  | .emChunk => (32, 0xFFFFFFFF, 0x00000029)
  | .emIhdr => (32, 0xFFFFFFFF, 0x0000002A)
  | .emIdat => (32, 0xFFFFFFFF, 0x0000002B)
  | .emIend => (32, 0xFFFFFFFF, 0x0000002C)
  | .filterTypeNone => (8, 0xFF, 0x00)
  | .filterTypeSub => (8, 0xFF, 0x01)
  | .filterTypeUp => (8, 0xFF, 0x02)
  | .filterTypeAverage => (8, 0xFF, 0x03)
  | .filterTypePaeth => (8, 0xFF, 0x04)

/-- The encoding of `i` matches its row. -/
def Statement (i : Instr) : Prop :=
  (bits (encode i)).1 = (row i).1 ∧ (bits (encode i)).2 &&& (row i).2.1 = (row i).2.2

theorem nop : Statement .nop := by unfold Statement; decide
theorem unfilterRow (zp : Bool) : Statement (.unfilterRow zp) := by revert zp; unfold Statement; decide
theorem filterRow (ft : BitVec 3) (zp : Bool) : Statement (.filterRow ft zp) := by revert ft zp; unfold Statement; decide
theorem unfilterImage : Statement .unfilterImage := by unfold Statement; decide
theorem filterImage (ft : BitVec 3) : Statement (.filterImage ft) := by revert ft; unfold Statement; decide
theorem geom : Statement .geom := by unfold Statement; decide
theorem imglen : Statement .imglen := by unfold Statement; decide
theorem unpackRow : Statement .unpackRow := by unfold Statement; decide
theorem packRow : Statement .packRow := by unfold Statement; decide
theorem a7Dims : Statement .a7Dims := by unfold Statement; decide
theorem a7Map : Statement .a7Map := by unfold Statement; decide
theorem a7Inv : Statement .a7Inv := by unfold Statement; decide
theorem crcUpdate (ci cf : Bool) : Statement (.crcUpdate ci cf) := by revert ci cf; unfold Statement; decide
theorem frStart : Statement .frStart := by unfold Statement; decide
theorem frNext : Statement .frNext := by unfold Statement; decide
theorem frFinish : Statement .frFinish := by unfold Statement; decide
theorem emStart : Statement .emStart := by unfold Statement; decide
theorem emChunk : Statement .emChunk := by unfold Statement; decide
theorem emIhdr : Statement .emIhdr := by unfold Statement; decide
theorem emIdat : Statement .emIdat := by unfold Statement; decide
theorem emIend : Statement .emIend := by unfold Statement; decide
theorem filterTypeNone : Statement .filterTypeNone := by unfold Statement; decide
theorem filterTypeSub : Statement .filterTypeSub := by unfold Statement; decide
theorem filterTypeUp : Statement .filterTypeUp := by unfold Statement; decide
theorem filterTypeAverage : Statement .filterTypeAverage := by unfold Statement; decide
theorem filterTypePaeth : Statement .filterTypePaeth := by unfold Statement; decide

end Sys2Proof.Laws.TableRow
end

