-- ==== Sys2Proof/Tests/Slice0.lean ====
section
/-!
SUPPORT. Tests. Words are written out from the tables of 30_encoding.md; expected results are the vectors of
95_test_vectors.md or the examples of the cited rule; `test_witness_<Name>` shows that the hypotheses of the
obligation <Name> can be met together, clause by clause where it has several.
-/

namespace Sys2Proof.Tests

open Sys2Proof Sys2Proof.Machine

/-! ### Helpers -/

/-- Header registers from HDR's operands and HDR_FMT. -/
def header (w h fmt : Word) (il : Byte) : Header := ⟨w, h, fmt, il⟩

/-- Operand registers with these arguments and this header. -/
def args (a b c d : Word) (h : Header) : OperandRegs :=
  { OperandRegs.reset with arg0 := a, arg1 := b, arg2 := c, arg3 := d, hdr := h }

/-- A memory that holds `bs` from address `a` on. -/
def bytes (a : Nat) (bs : List Byte) : Memory := Memory.writeBytes [] a bs

/-- A machine of MEM_SIZE 0x10000, idle, with these registers and this memory. -/
def idle (g : OperandRegs) (m : Memory) : State := { State.reset with memSize := 0x10000, mem := m, regs := g }

/-- The same machine after the acceptance of the command word `w`. -/
def busy (w : Word) (g : OperandRegs) (m : Memory) : State := (idle g m).accept w

/-- A property of the next state. -/
def got {α : Type} (o : Host.Outcome State Fault Refusal) (f : State → α) : Option α :=
  match o with
  | .next t => some (f t)
  | .fault _ => none
  | .refused _ => none

/-- The next state, `d` if there is none. -/
def after (o : Host.Outcome State Fault Refusal) (d : State) : State :=
  match o with
  | .next t => t
  | .fault _ => d
  | .refused _ => d

theorem eq_next_of_got {o : Host.Outcome State Fault Refusal} (d : State) (h : got o (fun _ => ()) = some ()) :
    o = .next (after o d) := by
  cases o <;> simp_all [got, after]

/-- DONE and the four results. -/
def results (t : State) : Bool × Word × Word × Word × Word := (t.status.done, t.res0, t.res1, t.res2, t.res3)

/-- ERRCODE, ERR_OFFSET and ERR_CHUNK. -/
def failure (t : State) : Byte × Word × Word := (t.status.errCode, t.errOffset, t.errChunk)

/-! ### Ill-formed instructions and rejected encodings (R82-R84, R205) -/

theorem test_ill_formed_filterRow : Instr.wellFormed (.filterRow 6 false) = false := by decide
theorem test_ill_formed_filterImage : Instr.wellFormed (.filterImage 7) = false := by decide
theorem test_well_formed_auto : Instr.wellFormed (.filterRow 5 true) = true := by decide
theorem test_reject_reserved_bits : decodeCommand 0x00004001 = .error .reservedBits := by rfl
theorem test_reject_reserved_opcode : decodeCommand 0x0000002D = .error .reservedOpcode := by rfl
theorem test_reject_field : decodeCommand 0x00000901 = .error .fieldNotAllowed := by rfl
theorem test_reject_filter_select : decodeCommand 0x00000602 = .error .reservedFilterSelect := by rfl
theorem test_reject_filter_byte : decodeFilterByte 0xFF = .error .reservedFilterType := by rfl

/-! ### Decoding: one word written out per instruction (R80-R83, R92) -/

theorem test_decode_nop : decodeTableWord 32 0b00000000000000000000000000000000 = some (.nop) := by decide
theorem test_decode_unfilterRow : decodeTableWord 32 0b00000000000000000000100000000001 = some (.unfilterRow true) := by decide
theorem test_decode_filterRow : decodeTableWord 32 0b00000000000000000000110100000010 = some (.filterRow 5 true) := by decide
theorem test_decode_unfilterImage : decodeTableWord 32 0b00000000000000000000000000000011 = some (.unfilterImage) := by decide
theorem test_decode_filterImage : decodeTableWord 32 0b00000000000000000000010100000100 = some (.filterImage 5) := by decide
theorem test_decode_geom : decodeTableWord 32 0b00000000000000000000000000001000 = some (.geom) := by decide
theorem test_decode_imglen : decodeTableWord 32 0b00000000000000000000000000001001 = some (.imglen) := by decide
theorem test_decode_unpackRow : decodeTableWord 32 0b00000000000000000000000000001010 = some (.unpackRow) := by decide
theorem test_decode_packRow : decodeTableWord 32 0b00000000000000000000000000001011 = some (.packRow) := by decide
theorem test_decode_a7Dims : decodeTableWord 32 0b00000000000000000000000000010000 = some (.a7Dims) := by decide
theorem test_decode_a7Map : decodeTableWord 32 0b00000000000000000000000000010001 = some (.a7Map) := by decide
theorem test_decode_a7Inv : decodeTableWord 32 0b00000000000000000000000000010010 = some (.a7Inv) := by decide
theorem test_decode_crcUpdate : decodeTableWord 32 0b00000000000000000001000000011000 = some (.crcUpdate true false) := by decide
theorem test_decode_frStart : decodeTableWord 32 0b00000000000000000000000000100000 = some (.frStart) := by decide
theorem test_decode_frNext : decodeTableWord 32 0b00000000000000000000000000100001 = some (.frNext) := by decide
theorem test_decode_frFinish : decodeTableWord 32 0b00000000000000000000000000100010 = some (.frFinish) := by decide
theorem test_decode_emStart : decodeTableWord 32 0b00000000000000000000000000101000 = some (.emStart) := by decide
theorem test_decode_emChunk : decodeTableWord 32 0b00000000000000000000000000101001 = some (.emChunk) := by decide
theorem test_decode_emIhdr : decodeTableWord 32 0b00000000000000000000000000101010 = some (.emIhdr) := by decide
theorem test_decode_emIdat : decodeTableWord 32 0b00000000000000000000000000101011 = some (.emIdat) := by decide
theorem test_decode_emIend : decodeTableWord 32 0b00000000000000000000000000101100 = some (.emIend) := by decide
theorem test_decode_filterTypeNone : decodeTableWord 8 0b00000000 = some (.filterTypeNone) := by decide
theorem test_decode_filterTypeSub : decodeTableWord 8 0b00000001 = some (.filterTypeSub) := by decide
theorem test_decode_filterTypeUp : decodeTableWord 8 0b00000010 = some (.filterTypeUp) := by decide
theorem test_decode_filterTypeAverage : decodeTableWord 8 0b00000011 = some (.filterTypeAverage) := by decide
theorem test_decode_filterTypePaeth : decodeTableWord 8 0b00000100 = some (.filterTypePaeth) := by decide

/-! ### One step on a small state, against 95_test_vectors.md -/

/-- A gray image header of bit depth 1 and of 8 bits. -/
def gray1 : Header := header 0 0 0x001 0
def gray8 : Header := header 2 2 0x008 0

/-- The 25 bytes of the 'IHDR' chunk of R139's example. -/
def ihdrChunk : List Byte :=
  [0x00, 0x00, 0x00, 0x0D, 0x49, 0x48, 0x44, 0x52, 0x00, 0x00, 0x00, 0x02, 0x00, 0x00, 0x00, 0x02, 0x08, 0x00, 0x00, 0x00,
    0x00, 0x57, 0xDD, 0x52, 0xF8]

/-- A parse of a stream of 45 bytes at 0x200, with this FR_STATE and cursor (R138, R139). -/
def parsing (fr : FrState) (cursor : Word) (h : Header) : OperandRegs :=
  { args 0 0 0 0 h with fr := fr, frBase := 0x200, frCursor := cursor, frLimit := 0x22D }

/-- An emission at 0x400 of capacity 0x80, with this ordering state and cursor (95_test_vectors.md 2.4). -/
def emitting (order : ChunkOrder) (cursor : Word) (g : OperandRegs) : OperandRegs :=
  { g with em := ⟨true, order⟩, emBase := 0x400, emCursor := cursor, emLimit := 0x480 }

theorem test_nop :
    got (exec .nop (busy 0 .reset [])) (fun t => (t.statusWord, results t)) = some (2, true, 0, 0, 0, 0) := by decide
theorem test_geom_gray1 :
    got (exec .geom (busy 0x08 (args 10 0 0 0 gray1) [])) results = some (true, 1, 1, 1, 2) := by decide
theorem test_geom_rgba16_largest :
    got (exec .geom (busy 0x08 (args 536870911 0 0 0 (header 0 0 0x610 0)) [])) (fun t => t.res3) = some 0xFFFFFFF8 := by decide
theorem test_imglen_adam7 :
    got (exec .imglen (busy 0x09 (args 0 0 0 0 (header 3 3 0x008 1)) [])) results = some (true, 15, 9, 6, 5) := by decide
theorem test_imglen_packed_adam7 :
    got (exec .imglen (busy 0x09 (args 0 0 0 0 (header 16 16 0x001 1)) [])) results = some (true, 68, 38, 30, 7) := by decide
theorem test_unpackRow_padding :
    got (exec .unpackRow (busy 0x0A (args 0x100 0x200 10 0 gray1) (bytes 0x100 [0xA5, 0xFF])))
        (fun t => (t.memRead 0x200 10, t.res0, t.res1)) = some ([1, 0, 1, 0, 0, 1, 0, 1, 1, 1], 10, 10) := by decide
theorem test_unpackRow_depth16 :
    got (exec .unpackRow (busy 0x0A (args 0x100 0x200 2 0 (header 0 0 0x010 0)) (bytes 0x100 [0x12, 0x34, 0xAB, 0xCD])))
        (fun t => (t.memRead 0x200 4, t.res0, t.res1)) = some ([0x12, 0x34, 0xAB, 0xCD], 2, 4)
      ∧ sampleOf 16 [0x12, 0x34, 0xAB, 0xCD] 1 = 0xABCD := by decide
theorem test_packRow_padding :
    got (exec .packRow (busy 0x0B (args 0x200 0x300 10 0 gray1) (bytes 0x200 [1, 0, 1, 0, 0, 1, 0, 1, 1, 1])))
        (fun t => (t.memRead 0x300 2, t.res0, t.res1)) = some ([0xA5, 0xC0], 2, 10) := by decide
theorem test_packRow_sample_range :
    got (exec .packRow (busy 0x0B (args 0x200 0x300 4 0 (header 0 0 0x002 0)) (bytes 0x200 [0, 1, 2, 4]))) failure
      = some (0x31, 3, 0) := by decide
theorem test_a7Dims_skipped :
    got (exec .a7Dims (busy 0x10 (args 2 0 0 0 (header 3 3 0 0)) [])) results = some (true, 0, 1, 1, 0) := by decide
theorem test_a7Map :
    got (exec .a7Map (busy 0x11 (args 4 1 2 0 (header 9 9 0 0)) [])) results = some (true, 6, 8, 0, 0) := by decide
theorem test_a7Inv :
    got (exec .a7Inv (busy 0x12 (args 3 5 0 0 (header 9 9 0 0)) [])) results = some (true, 7, 3, 2, 0) := by decide
set_option maxRecDepth 20000 in
theorem test_crcUpdate_chains :
    got (exec (.crcUpdate false true) (busy 0x2018 { args 0x14 5 0 0 gray8 with crc := 0x641C1F5C }
        (bytes 0x14 [0x35, 0x36, 0x37, 0x38, 0x39]))) (fun t => (t.res0, t.regs.crc)) = some (0xCBF43926, 0xFFFFFFFF) := by decide
theorem test_frStart :
    got (exec .frStart (busy 0x20 (args 0x200 45 0 0 gray8) (bytes 0x200 pngSignature)))
        (fun t => (t.res0, t.regs.frCursor, t.regs.frLimit, t.regs.fr.toWord)) = some (37, 0x208, 0x22D, 1) := by decide
theorem test_frStart_signature :
    got (exec .frStart (busy 0x20 (args 0 8 0 0 gray8) (bytes 0 [0x89, 0x50, 0x4E, 0x00])))
        (fun t => (failure t, t.regs.fr.toWord)) = some ((0x10, 3, 0), 0x40) := by decide
set_option maxRecDepth 20000 in
theorem test_frNext_ihdr :
    got (exec .frNext (busy 0x21 (parsing ⟨true, .reset, false, false⟩ 0x208 (header 0 0 0 0)) (bytes 0x208 ihdrChunk)))
        (fun t => (results t, t.regs.frCursor, t.regs.fr.toWord, t.regs.hdr))
      = some ((true, 0x49484452, 13, 0x210, 1), 0x221, 0x03, header 2 2 0x008 0) := by decide
set_option maxRecDepth 20000 in
theorem test_frNext_crc :
    got (exec .frNext (busy 0x21 (parsing ⟨true, .reset, false, false⟩ 0x208 (header 0 0 0 0))
        ((bytes 0x208 ihdrChunk).write 0x220 0))) (fun t => (failure t, t.regs.fr.toWord)) = some ((0x13, 8, 0x49484452), 0x41) := by decide
theorem test_frFinish :
    got (exec .frFinish (busy 0x22 (parsing ⟨true, ⟨true, false, .closed, true⟩, false, false⟩ 0x22D gray8) []))
        (fun t => (t.res0, t.regs.fr.toWord)) = some (45, 0xB3) := by decide
theorem test_emStart :
    got (exec .emStart (busy 0x28 (args 0x400 0x40 0 0 gray8) []))
        (fun t => (t.memRead 0x400 8, t.res0, t.regs.emCursor, t.regs.emLimit, t.regs.em.toWord))
      = some ([0x89, 0x50, 0x4E, 0x47, 0x0D, 0x0A, 0x1A, 0x0A], 8, 0x408, 0x440, 1) := by decide
set_option maxRecDepth 20000 in
theorem test_emChunk_text :
    got (exec .emChunk (busy 0x29 (emitting ⟨true, false, .isOpen, false⟩ 0x45B (args 0x74455874 0x300 0 0 gray8)) []))
        (fun t => (results t, t.regs.emCursor, t.regs.em.toWord))
      = some ((true, 12, 0x9642C585, 0, 0), 0x467, 0x13) := by decide
set_option maxRecDepth 20000 in
theorem test_emIhdr :
    got (exec .emIhdr (busy 0x2A (emitting .reset 0x408 (args 0 0 0 0 gray8)) []))
        (fun t => (t.memRead 0x408 25, t.res0, t.res1, t.regs.emCursor)) = some (ihdrChunk, 25, 0x57DD52F8, 0x421) := by decide
set_option maxRecDepth 20000 in
theorem test_emIdat_splits :
    got (exec .emIdat (busy 0x2B { emitting ⟨true, false, .noIdat, false⟩ 0x421 (args 0 0x300 10 0 gray8) with idatMax := 4 }
        (bytes 0x300 [1, 2, 3, 4, 5, 6, 7, 8, 9, 10])))
        (fun t => (t.memRead 0x421 16, t.memRead 0x441 14, t.res0, t.res1, t.regs.emCursor))
      = some ([0, 0, 0, 4, 0x49, 0x44, 0x41, 0x54, 1, 2, 3, 4, 0x7D, 0x5B, 0xC3, 0xD6],
        [0, 0, 0, 2, 0x49, 0x44, 0x41, 0x54, 9, 10, 0x4D, 0xEC, 0xEF, 0xED], 46, 3, 0x44F) := by decide
theorem test_emIend :
    got (exec .emIend (busy 0x2C (emitting ⟨true, false, .closed, false⟩ 0x467 (args 0 0 0 0 gray8)) []))
        (fun t => (t.memRead 0x467 12, t.res1, t.regs.emCursor, t.regs.em.toWord))
      = some ([0, 0, 0, 0, 0x49, 0x45, 0x4E, 0x44, 0xAE, 0x42, 0x60, 0x82], 0xAE426082, 0x473, 0x33) := by decide
theorem test_emIend_missing_idat :
    got (exec .emIend (busy 0x2C (emitting ⟨true, false, .noIdat, false⟩ 0x421 (args 0 0 0 0 gray8)) [])) failure
      = some (0x19, 0x21, 0x49454E44) := by decide
theorem test_unfilterRow_up :
    got (exec (.unfilterRow false) (busy 0x01 (args 0x100 0x200 0x300 2 gray8)
        (Memory.writeBytes (bytes 0x100 [2, 0x80, 0x41]) 0x300 [0x00, 0xFF])))
        (fun t => (t.memRead 0x200 2, t.res0, t.res1)) = some ([0x80, 0x40], 2, 2) := by decide
theorem test_unfilterRow_average_not_wrapped :
    got (exec (.unfilterRow false) (busy 0x01 (args 0x100 0x200 0x300 2 gray8)
        (Memory.writeBytes (bytes 0x100 [3, 0xC8, 0x05]) 0x300 [0x00, 0x64]))) (fun t => t.memRead 0x200 2) = some [0xC8, 0x9B] := by decide
theorem test_filterRow_auto_tie :
    got (exec (.filterRow 5 false) (busy 0x502 (args 0x100 0x200 0x300 4 gray8)
        (Memory.writeBytes (bytes 0x100 [0x0F, 0x19, 0x23, 0x2D]) 0x300 [0x0A, 0x14, 0x1E, 0x28])))
        (fun t => (t.memRead 0x200 5, t.res0, t.res1, t.res2)) = some ([2, 5, 5, 5, 5], 2, 20, 5) := by decide
theorem test_unfilterImage :
    got (exec .unfilterImage (busy 0x03 (args 0x200 0x300 6 0 gray8) (bytes 0x200 [0, 0x00, 0xFF, 2, 0x80, 0x41])))
        (fun t => (t.memRead 0x300 4, t.res0, t.res1)) = some ([0x00, 0xFF, 0x80, 0x40], 4, 2) := by decide
theorem test_unfilterImage_filter_type :
    got (exec .unfilterImage (busy 0x03 (args 0x200 0x300 6 0 gray8) (bytes 0x200 [0, 0x00, 0xFF, 9, 0x80, 0x41]))) failure
      = some (0x1F, 3, 0) := by decide
theorem test_filterImage_auto :
    got (exec (.filterImage 5) (busy 0x504 (args 0x100 0x200 4 0 gray8) (bytes 0x100 [0x00, 0xFF, 0x80, 0x40])))
        (fun t => (t.memRead 0x200 6, t.res0, t.res1)) = some ([0, 0x00, 0xFF, 0, 0x80, 0x40], 6, 2) := by decide

/-- UNFILTER_IMAGE in its second scanline of 4 bytes at 0x101 (the type byte stands at 0x100), prior row at hand; the
expected bytes are the rows of 95_test_vectors.md 2.6. -/
def walking (filt : List Byte) : State :=
  { busy 0x03 (args 0 0x200 10 0 (header 4 2 0x008 0)) (bytes 0x101 filt) with
    row := some ⟨.unfilter, 1, 0x100, 0x204, 4, 1, [0x0A, 0x14, 0x1E, 0x28], []⟩ }

theorem test_filterTypeNone :
    got (exec .filterTypeNone (walking [0x0F, 0x19, 0x23, 0x2D])) (fun t => (t.memRead 0x204 4, t.busy, t.res0, t.res1))
      = some ([0x0F, 0x19, 0x23, 0x2D], false, 8, 2) := by decide
theorem test_filterTypeSub :
    got (exec .filterTypeSub (walking [0x0F, 0x0A, 0x0A, 0x0A])) (fun t => (t.memRead 0x204 4, t.busy, t.res0, t.res1))
      = some ([0x0F, 0x19, 0x23, 0x2D], false, 8, 2) := by decide
theorem test_filterTypeUp :
    got (exec .filterTypeUp (walking [0x05, 0x05, 0x05, 0x05])) (fun t => (t.memRead 0x204 4, t.busy, t.res0, t.res1))
      = some ([0x0F, 0x19, 0x23, 0x2D], false, 8, 2) := by decide
theorem test_filterTypeAverage :
    got (exec .filterTypeAverage (walking [0x0A, 0x08, 0x08, 0x08])) (fun t => (t.memRead 0x204 4, t.busy, t.res0, t.res1))
      = some ([0x0F, 0x19, 0x23, 0x2D], false, 8, 2) := by decide
theorem test_filterTypePaeth :
    got (exec .filterTypePaeth (walking [0x05, 0x05, 0x05, 0x05])) (fun t => (t.memRead 0x204 4, t.busy, t.res0, t.res1))
      = some ([0x0F, 0x19, 0x23, 0x2D], false, 8, 2) := by decide

/-! ### The host and the step (95_test_vectors.md 2.1, 2.8) -/

/-- The machine with these events next. -/
def then_ (s : State) (es : List Event) : State := { s with agenda := es }

theorem test_fetch_command :
    got (step (State.reset.withFetchWord 32 0x00000000)) (fun t => t.statusWord) = some 2 := by decide
theorem test_fetch_filter_byte : got (step (State.reset.withFetchWord 8 0x04)) (fun t => t.statusWord) = some 2 := by decide
theorem test_illegal_word :
    got (step (then_ (busy 0x00000100 .reset []) [.engine])) (fun t => (t.statusWord, failure t)) = some (0x4004, 0x40, 0, 0) := by
  decide
theorem test_lost : got (step (then_ (busy 0 .reset []) [asmWrite .arg0 5])) (fun t => (t.regs.arg0, t.statusWord)) = some (0, 9) := by
  decide
theorem test_reserved_hdr_il : got (step (then_ (idle .reset []) [asmWrite .hdrIl 0x301])) (fun t => t.readReg .hdrIl) = some 1 := by
  decide
theorem test_filter_auto_word : asmCmd (.filterRow 5 true) = [asmWrite .cmd 0x00000D02] := by decide
theorem test_soft_reset :
    got (step (then_ (busy 0x28 (args 0x400 64 0 0 gray8) []) [asmWrite .ctrl 4])) (fun t => (t.statusWord, t.readReg .arg0, t.busy))
      = some (0, 0, false) := by decide

/-! ### Witnesses: the hypotheses of each obligation can be met together -/

theorem test_witness_DecodeEncodeAgree :
    Instr.wellFormed (.filterRow 5 true) = true
      ∧ decode (.command 0x00000D02) = .ok (.filterRow 5 true) ∧ decode (.filterByte 4) = .ok .filterTypePaeth :=
  ⟨by decide, rfl, rfl⟩

theorem test_witness_LegalWordsExactly :
    (busy 0x00000602 .reset []).phase = .busy ⟨0x00000602, .reset⟩ ∧ (busy 0x00000602 .reset []).raced = false
      ∧ (busy 0x00000602 .reset []).row = none ∧ decodeCommand 0x00000602 = .error .reservedFilterSelect :=
  ⟨rfl, rfl, rfl, rfl⟩

/-- A scanline of a walk of this kind. -/
def scanline (kind : WalkKind) (left : Nat) (rest : List (Nat × Nat)) : State :=
  { busy 0x03 (args 0 0x200 10 0 (header 4 2 0x008 0)) (bytes 0x100 [3, 1, 2, 3, 4]) with
    row := some ⟨kind, 1, 0x100, 0x204, 4, left, [9, 9, 9, 9], rest⟩ }

theorem test_witness_StepRunsTheInstruction :
    (let s := busy 0x08 .reset [];
      s.phase = .busy ⟨0x08, .reset⟩ ∧ s.raced = false ∧ s.row = none ∧ decodeCommand 0x08 = .ok .geom ∧ s.agenda = []
        ∧ (then_ s [.engine]).agenda = .engine :: [] ∧ (then_ s [.engineRow]).agenda = .engineRow :: [])
      ∧ (let s := then_ (scanline .unfilter 1 []) [.engineRow];
        s.raced = false ∧ s.row = some ⟨.unfilter, 1, 0x100, 0x204, 4, 1, [9, 9, 9, 9], []⟩
          ∧ s.agenda = .engineRow :: [] ∧ decodeFilterByte (s.readByte 0x100) = .ok .filterTypeAverage)
      ∧ (let s := then_ (scanline .unfilter 1 []) []; s.raced = false ∧ s.row.isSome = true ∧ s.agenda = [])
      ∧ FilterType.code .paeth = (4 : BitVec 3).setWidth 8 ∧ (scanline (.filter 4) 1 []).row.map RowWalk.kind = some (.filter 4)
      ∧ (scanline (.filter 5) 1 []).row.map RowWalk.kind = some (.filter 5) :=
  ⟨⟨rfl, rfl, rfl, rfl, rfl, rfl, rfl⟩, ⟨rfl, rfl, rfl, rfl⟩, ⟨rfl, rfl, rfl⟩, by decide, by decide, by decide⟩

theorem test_witness_CommandWriteAccepts :
    (then_ (idle .reset []) [asmWrite .cmd 0x08]).agenda = .host (.regWrite 0x04 .word 0x08) :: []
      ∧ (idle .reset []).phase = .idle ∧ (busy 0x08 .reset []).phase ≠ .idle := by decide

theorem test_witness_BusyWritesAreDropped :
    (busy 0x08 .reset []).phase = .busy ⟨0x08, .reset⟩
      ∧ (∀ o ∈ [0x04, 0x10, 0x4C, 0x0C, 0x00, 0x08, 0x20, 0x50, 0x6C, 0x70, 0xFC], (BitVec.ofNat 8 o).toNat % 4 = 0)
      ∧ 0x04 ∈ lockedOffsets ∧ 0x4C ∈ lockedOffsets ∧ 0x0C ∉ lockedOffsets ∧ 0x08 ∉ lockedOffsets ∧ 0x50 ∉ lockedOffsets
      ∧ 0x70 ∉ lockedOffsets
      ∧ (then_ (busy 0x08 .reset []) [asmWrite .arg0 5]).agenda = .host (.regWrite 0x10 .word 5) :: [] := by decide

theorem test_witness_IdleWritesStore :
    (idle .reset []).phase = .idle ∧ (0x4C#8).toNat % 4 = 0 ∧ 0x4C ∈ lockedOffsets ∧ 0x70 ∉ lockedOffsets
      ∧ (then_ (idle .reset []) [asmWrite .hdrIl 0x301]).agenda = .host (.regWrite 0x4C .word 0x301) :: [] := by decide

theorem test_witness_RegisterReads :
    (0x20#8).toNat % 4 = 0 ∧ (busy 0x08 .reset []).busy = true ∧ 0x20 ∈ unspecifiedOffsets ∧ 0x10 ∉ unspecifiedOffsets
      ∧ 0x6C ∈ unspecifiedOffsets ∧ 0x70 ∉ unspecifiedOffsets ∧ (idle .reset []).busy = false
      ∧ (then_ (idle .reset []) [asmRead .res0]).agenda = .host (.regRead 0x20 .word) :: [] := by decide

theorem test_witness_OddAccessIsRefused :
    (AccessWidth.half ≠ .word ∨ (0x04#8).toNat % 4 ≠ 0) ∧ (AccessWidth.word ≠ .word ∨ (0x05#8).toNat % 4 ≠ 0)
      ∧ (then_ (idle .reset []) [.host (.regRead 0x05 .word)]).agenda = .host (.regRead 0x05 .word) :: [] := by decide

theorem test_witness_ControlWrite :
    (then_ (idle .reset []) [asmWrite .ctrl 3]).agenda = .host (.regWrite 0x0C .word 3) :: []
      ∧ (3 : Word).getLsbD 2 = false := by decide

theorem test_witness_SoftReset :
    (then_ (busy 0x28 (args 0x400 64 0 0 gray8) []) [asmWrite .ctrl 6]).agenda = .host (.regWrite 0x0C .word 6) :: []
      ∧ (6 : Word).getLsbD 2 = true ∧ inRanges (busy 0x28 (args 0x400 64 0 0 gray8) []).runningWrites 0x407 = true
      ∧ inRanges (busy 0x28 (args 0x400 64 0 0 gray8) []).runningWrites 0x408 = false
      ∧ 0x407 < (busy 0x28 (args 0x400 64 0 0 gray8) []).memSize ∧ (idle .reset []).phase = .idle := by decide

theorem test_witness_InterruptLevel :
    (then_ (idle .reset []) [.host .irqSample]).agenda = .host .irqSample :: [] := by decide

theorem test_witness_PowerOnReset :
    (then_ (busy 0x08 .reset []) [.host .powerOn]).agenda = .host .powerOn :: [] := by decide

theorem test_witness_HostByteAccess :
    (then_ (idle .reset []) [.host (.memWrite 0xFFFF 1)]).agenda = .host (.memWrite 0xFFFF 1) :: []
      ∧ (then_ (idle .reset []) [.host (.memRead 0x10000)]).agenda = .host (.memRead 0x10000) :: []
      ∧ (0xFFFF#32).toNat < (idle .reset []).memSize ∧ ¬(0x10000#32).toNat < (idle .reset []).memSize
      ∧ inRanges (busy 0x28 (args 0x400 64 0 0 gray8) []).runningWrites 0x400 = true := by decide

theorem test_witness_RacedCommandCompletes :
    let s := after (step (then_ (busy 0x28 (args 0x400 64 0 0 gray8) []) [.host (.memWrite 0x407 1)])) State.reset
    s.phase = .busy ⟨0x28, args 0x400 64 0 0 gray8⟩ ∧ s.raced = true ∧ inRanges s.runningWrites 0x408 = false := by decide

theorem test_witness_NopCompletes : (busy 0 .reset []).phase = .busy ⟨0, .reset⟩ := by decide

theorem test_witness_GeomReports :
    let h := header 0 0 0x610 0
    (busy 0x08 (args 536870911 0 0 0 h) []).phase = .busy ⟨0x08, args 536870911 0 0 0 h⟩ ∧ h.fmtValid = true
      ∧ [1, 0, 3, 1, 2, 0, 4].getD h.colorType 0 = 4 ∧ 1 + (h.bitDepth * 4 * 536870911 + 7) / 8 ≤ 2 ^ 32 - 1
      ∧ 536870911 * 4 * 2 ≤ 2 ^ 32 - 1 := by decide

theorem test_witness_ImglenReports :
    (header 3 3 0x008 1).imageValid = true ∧ filteredBytes (header 3 3 0x008 1).passRows ≤ 2 ^ 32 - 1
      ∧ (header 3 3 0x008 0).imageValid = true ∧ (header 1 1 0x610 0).imageValid = true := by decide

theorem test_witness_UnpackRowWrites :
    let o := args 0x100 0xFFF6 10 0 gray1
    let s := busy 0x0A o (bytes 0x100 [0xA5, 0xFF])
    s.phase = .busy ⟨0x0A, o⟩ ∧ o.hdr.fmtValid = true ∧ 1 + o.hdr.rowBytes 10 ≤ u32Max
      ∧ o.hdr.samples 10 * o.hdr.sampleWidth ≤ u32Max ∧ RangesFit .unpackRow o s ∧ RangesApart .unpackRow o s := by decide

theorem test_witness_UnpackRowWrites_depth16 :
    let o := args 0x100 0xFFFC 2 0 (header 0 0 0x010 0)
    let s := busy 0x0A o (bytes 0x100 [0x12, 0x34, 0xAB, 0xCD])
    o.hdr.fmtValid = true ∧ 1 + o.hdr.rowBytes 2 ≤ u32Max ∧ o.hdr.samples 2 * o.hdr.sampleWidth ≤ u32Max
      ∧ RangesFit .unpackRow o s ∧ RangesApart .unpackRow o s := by decide

theorem test_witness_PackRowWrites :
    let o := args 0x200 0x20A 10 0 gray1
    let s := busy 0x0B o (bytes 0x200 [1, 0, 1, 0, 0, 1, 0, 1, 1, 1])
    s.phase = .busy ⟨0x0B, o⟩ ∧ o.hdr.fmtValid = true ∧ 1 + o.hdr.rowBytes 10 ≤ u32Max
      ∧ o.hdr.samples 10 * o.hdr.sampleWidth ≤ u32Max ∧ RangesFit .packRow o s ∧ RangesApart .packRow o s
      ∧ ∀ k < o.hdr.samples 10, beValue (s.memRead (0x200 + k * o.hdr.sampleWidth) o.hdr.sampleWidth) < 2 ^ o.hdr.bitDepth := by
  decide

theorem test_witness_PassDimensions :
    (busy 0x10 (args 7 0 0 0 (header 3 3 0 0)) []).phase = .busy ⟨0x10, args 7 0 0 0 (header 3 3 0 0)⟩
      ∧ (args 7 0 0 0 (header 3 3 0 0)).arg0.toNat ≤ 7 := by decide

theorem test_witness_CoordinatesAreMapped :
    (let o := args 7 8 3 0 (header 9 9 0 0);
      o.arg0.toNat ≤ 7 ∧ o.arg1.toNat < (passDims 7 9 9).1 ∧ o.arg2.toNat < (passDims 7 9 9).2)
      ∧ (let o := args 8 8 0 0 (header 9 9 0 0);
        o.arg0.toNat < o.hdr.width.toNat ∧ o.arg1.toNat < o.hdr.height.toNat) := by decide

theorem test_witness_CrcUpdateAbsorbs :
    let o := args 0xFFFE 2 0 0 gray8
    (busy 0x18 o []).phase = .busy ⟨0x18, o⟩ ∧ (Range.mk o.arg0.toNat o.arg1.toNat).Fits (busy 0x18 o []).memSize := by decide

theorem test_witness_ParseStarts :
    let o := args 0xFFF8 8 0 0 gray8
    let s := busy 0x20 o (bytes 0xFFF8 pngSignature)
    s.phase = .busy ⟨0x20, o⟩ ∧ 8 ≤ o.arg1.toNat ∧ o.arg0.toNat + o.arg1.toNat ≤ 2 ^ 32 - 1
      ∧ o.arg0.toNat + o.arg1.toNat ≤ s.memSize ∧ s.memRead o.arg0.toNat 8 = pngSignature := by decide

set_option maxRecDepth 20000 in
theorem test_witness_ChunkIsParsed :
    let o := { parsing ⟨true, .reset, false, false⟩ 0x208 gray8 with frLimit := 0x221 }
    let s := busy 0x21 o (bytes 0x208 ihdrChunk)
    let len := beValue (s.memRead 0x208 4)
    let t := s.memRead 0x20C 4
    let p := s.memRead 0x210 len
    s.phase = .busy ⟨0x21, o⟩ ∧ o.fr.sigOk = true ∧ o.fr.fail = false ∧ o.fr.done = false ∧ o.frLimit.toNat ≤ s.memSize
      ∧ 0x208 + 12 + len ≤ o.frLimit.toNat ∧ beValue (s.memRead (0x210 + len) 4) = (crc32 (t ++ p)).toNat
      ∧ o.fr.order.Accepts t len p := by decide

theorem test_witness_ParseFinishes :
    let o := parsing ⟨true, ⟨true, false, .closed, true⟩, false, false⟩ 0x22D gray8
    (busy 0x22 o []).phase = .busy ⟨0x22, o⟩ ∧ o.fr.sigOk = true ∧ o.fr.fail = false ∧ o.fr.done = false
      ∧ o.fr.order.iendSeen = true ∧ o.frLimit.toNat ≤ o.frCursor.toNat := by decide

/-- The same with FR_LIMIT below FR_BASE, as a race may leave it (log 21). -/
theorem test_witness_ParseFinishes_raced :
    let o := { parsing ⟨true, ⟨true, false, .closed, true⟩, false, false⟩ 0x22D gray8 with frBase := 0x300 }
    (busy 0x22 o []).phase = .busy ⟨0x22, o⟩ ∧ o.fr.order.iendSeen = true ∧ o.frLimit.toNat ≤ o.frCursor.toNat
      ∧ ¬o.frBase.toNat ≤ o.frLimit.toNat := by decide

theorem test_witness_EmitStarts :
    let o := args 0xFFF8 8 0 0 gray8
    (busy 0x28 o []).phase = .busy ⟨0x28, o⟩ ∧ 8 ≤ o.arg1.toNat ∧ o.arg0.toNat + o.arg1.toNat ≤ 2 ^ 32 - 1
      ∧ o.arg0.toNat + o.arg1.toNat ≤ (busy 0x28 o []).memSize := by decide

theorem test_witness_ChunkIsEmitted :
    let o := emitting ⟨true, false, .isOpen, false⟩ 0x470 (args 0x74455874 0x46C 4 0 gray8)
    let s := busy 0x29 o (bytes 0x46C [1, 2, 3, 4])
    s.phase = .busy ⟨0x29, o⟩ ∧ o.em.started = true ∧ 12 + 4 ≤ 2 ^ 32 - 1 ∧ 0x470 + 12 + 4 ≤ o.emLimit.toNat
      ∧ 0x470 + 12 + 4 ≤ s.memSize ∧ RangesFit .emChunk o s ∧ RangesApart .emChunk o s
      ∧ o.em.order.Accepts (bytesBE4 o.arg0) 4 (s.memRead 0x46C 4) := by decide

theorem test_witness_HeaderIsEmitted :
    let o := emitting .reset 0x467 (args 0 0 0 0 gray8)
    (busy 0x2A o []).phase = .busy ⟨0x2A, o⟩ ∧ o.em.started = true ∧ 0x467 + 25 ≤ o.emLimit.toNat
      ∧ 0x467 + 25 ≤ (busy 0x2A o []).memSize ∧ o.em.order.iendSeen = false ∧ o.em.order.ihdrSeen = false
      ∧ o.hdr.imageValid = true ∧ o.hdr.compression = 0 ∧ o.hdr.filterMethod = 0 := by decide

theorem test_witness_PayloadIsSplit :
    let o := { emitting ⟨true, false, .noIdat, false⟩ 0x421 (args 0 0x300 10 0 gray8) with idatMax := 4 }
    let s := busy 0x2B o []
    let k := max 1 ((10 + 4 - 1) / 4)
    s.phase = .busy ⟨0x2B, o⟩ ∧ o.em.started = true ∧ o.idatMax.toNat ≠ 0 ∧ 12 * k + 10 ≤ 2 ^ 32 - 1
      ∧ 0x421 + 12 * k + 10 ≤ o.emLimit.toNat ∧ 0x421 + 12 * k + 10 ≤ s.memSize ∧ RangesFit .emIdat o s
      ∧ RangesApart .emIdat o s ∧ o.em.order.iendSeen = false ∧ o.em.order.ihdrSeen = true ∧ o.em.order.idat ≠ .closed := by
  decide

theorem test_witness_StreamIsClosed :
    let o := emitting ⟨true, false, .isOpen, false⟩ 0x474 (args 0 0 0 0 gray8)
    (busy 0x2C o []).phase = .busy ⟨0x2C, o⟩ ∧ o.em.started = true ∧ 0x474 + 12 ≤ o.emLimit.toNat
      ∧ 0x474 + 12 ≤ (busy 0x2C o []).memSize ∧ o.em.order.iendSeen = false ∧ o.em.order.ihdrSeen = true
      ∧ o.em.order.idat ≠ .noIdat := by decide

theorem test_witness_RowIsReconstructed :
    let o := args 0x100 0x103 0x105 2 gray8
    let s := busy 0x01 o (bytes 0x100 [4, 0x10, 0x20])
    s.phase = .busy ⟨0x01, o⟩ ∧ o.hdr.fmtValid = true ∧ 1 + o.hdr.rowBytes 2 ≤ u32Max ∧ RangesFit (.unfilterRow false) o s
      ∧ RangesApart (.unfilterRow false) o s ∧ RangesFit (.unfilterRow true) o s ∧ RangesApart (.unfilterRow true) o s
      ∧ s.readByte 0x100 = FilterType.code .paeth := by decide

/-- The score of the row of `n` bytes of `s` at address 0 under filter type None (R204). -/
def noneScore (s : State) (n : Nat) : Nat :=
  ((List.range n).map fun i =>
    let f := s.readByte (0 + i) - predictor .none 0 0 0
    min f.toNat (256 - f.toNat)).sum

theorem test_witness_RowIsFiltered :
    let o := args 0 0x102 0x105 2 gray8
    let s := busy 0x002 o (bytes 0 [0x80, 1])
    s.phase = .busy ⟨0x002, o⟩ ∧ o.hdr.fmtValid = true ∧ 1 + o.hdr.rowBytes 2 ≤ u32Max
      ∧ RangesFit (.filterRow 5 false) o s ∧ RangesApart (.filterRow 5 false) o s ∧ RangesFit (.filterRow 0 true) o s
      ∧ RangesApart (.filterRow 0 true) o s ∧ FilterType.none.code = (0 : BitVec 3).setWidth 8
      ∧ noneScore s (o.hdr.rowBytes 2) ≤ 2 ^ 32 - 1 := by decide

/-- A row whose bytes are all 0x80 scores 128 a byte. -/
theorem noneScore_of_all_0x80 {s : State} {n : Nat} (h : ∀ i < n, s.readByte (0 + i) = 0x80) :
    noneScore s n = n * 128 := by
  unfold noneScore
  rw [List.map_congr_left (g := fun _ => 128)
    (fun i hi => by simp only [h i (List.mem_range.mp hi)]; decide)]
  simp

/-- `s` with `n` bytes 0x80 at address 0, and a memory of 2^28 bytes. -/
def withRow (s : State) (n : Nat) : State :=
  { s.memWrite 0 (List.replicate n 0x80) with memSize := 0x10000000 }

theorem readByte_withRow {s : State} {n i : Nat} (h : i < n) : (withRow s n).readByte (0 + i) = 0x80 := by
  refine (State.readByte_memWrite_inside (s := s) (a := 0) (bs := List.replicate n 0x80) (by simpa using h)).trans ?_
  simp [List.getD_eq_getElem?_getD, h]

/-- A running FILTER_ROW of a row of 2^25 bytes 0x80. -/
def largestScore : State := withRow (busy 0x802 (args 0 0x4000000 0 0x2000000 gray8) []) 0x2000000

/-- The score of FILTER_ROW may exceed 2^32 − 1 (log 20). -/
theorem test_witness_RowIsFiltered_score :
    let o := args 0 0x4000000 0 0x2000000 gray8
    largestScore.phase = .busy ⟨0x802, o⟩ ∧ o.hdr.fmtValid = true ∧ 1 + o.hdr.rowBytes 0x2000000 ≤ u32Max
      ∧ RangesFit (.filterRow 0 true) o largestScore ∧ RangesApart (.filterRow 0 true) o largestScore
      ∧ 2 ^ 32 - 1 < noneScore largestScore (o.hdr.rowBytes 0x2000000) := by
  refine ⟨rfl, by decide, by decide, by decide, by decide, ?_⟩
  have hn : (args 0 0x4000000 0 0x2000000 gray8).hdr.rowBytes 0x2000000 = 0x2000000 := by decide
  rw [hn, noneScore_of_all_0x80]
  · decide
  · exact fun i hi => readByte_withRow hi

theorem test_witness_ImageIsReconstructed :
    let o := args 0x200 0x206 6 0 gray8
    let s := busy 0x03 o (bytes 0x200 [0, 0x00, 0xFF, 4, 0x80, 0x41])
    s.phase = .busy ⟨0x03, o⟩ ∧ o.hdr.imageValid = true ∧ filteredBytes o.hdr.passRows ≤ u32Max
      ∧ o.arg2.toNat = filteredBytes o.hdr.passRows ∧ RangesFit .unfilterImage o s ∧ RangesApart .unfilterImage o s
      ∧ ∀ so ∈ typeOffsets o.hdr.passRows 0, (s.readByte (0x200 + so)).toNat ≤ 4 := by decide

theorem test_witness_ImageIsFiltered :
    let o := args 0x100 0x104 4 0 gray8
    let s := busy 0x504 o []
    s.phase = .busy ⟨0x504, o⟩ ∧ (5 : BitVec 3).toNat ≤ 5 ∧ o.hdr.imageValid = true
      ∧ filteredBytes o.hdr.passRows ≤ u32Max ∧ o.arg2.toNat = rawBytes o.hdr.passRows ∧ RangesFit (.filterImage 5) o s
      ∧ RangesApart (.filterImage 5) o s := by decide

/-- The scanline meets the hypotheses of the filter-type bytes' statements, in the middle of a pass, at its end with a
pass to come, and at the end of the walk. -/
theorem test_witness_FilterBytesReconstruct :
    (∀ c ∈ [(2, []), (1, [(3, 2)]), (1, [])], let s := scanline .unfilter c.1 c.2
      s.phase = .busy ⟨0x03, args 0 0x200 10 0 (header 4 2 0x008 0)⟩
        ∧ s.row = some ⟨.unfilter, 1, 0x100, 0x204, 4, c.1, [9, 9, 9, 9], c.2⟩ ∧ (Range.mk 0x100 (1 + 4)).Fits s.memSize
        ∧ (Range.mk 0x204 4).Fits s.memSize) ∧ 1 ≤ 1 := by decide

theorem test_witness_FilterBytesFilter :
    (∀ c ∈ [(2, []), (1, [(3, 2)]), (1, [])], let s := scanline (.filter 5) c.1 c.2
      s.phase = .busy ⟨0x03, args 0 0x200 10 0 (header 4 2 0x008 0)⟩
        ∧ s.row = some ⟨.filter 5, 1, 0x100, 0x204, 4, c.1, [9, 9, 9, 9], c.2⟩ ∧ (Range.mk 0x100 4).Fits s.memSize
        ∧ (Range.mk 0x204 (1 + 4)).Fits s.memSize) ∧ (busy 0x03 .reset []).row = none := by decide

theorem test_witness_HeaderErrors :
    (5 : BitVec 3).toNat ≤ 5 ∧ (header 1 1 0x310 0).fmtValid = false ∧ (header 0 2 0x008 0).imageValid = false
      ∧ (header 2 2 0x008 2).imageValid = false ∧ (header 2 2 0x00010008 1).imageValid = true := by decide

set_option maxRecDepth 20000 in
theorem test_witness_OverflowErrors :
    (header 0 0 0x610 0).fmtValid = true ∧ 2 ^ 32 - 1 < 1 + (header 0 0 0x610 0).rowBytes 536870912
      ∧ 2 ^ 32 - 1 < (header 0 0 0x001 0).samples 4294967295 * (header 0 0 0x001 0).sampleWidth + 1
      ∧ 2 ^ 32 - 1 < (header 0 0 0x608 0).samples 1073741824 * (header 0 0 0x608 0).sampleWidth
      ∧ (header 0xFFFFFFFF 0xFFFFFFFF 0x610 0).imageValid = true
      ∧ 2 ^ 32 - 1 < filteredBytes (header 0xFFFFFFFF 0xFFFFFFFF 0x610 0).passRows
      ∧ 2 ^ 32 - 1 < (0xFFFFFFF0#32).toNat + (0x20#32).toNat
      ∧ (emitting .reset 0x408 (args 0 0 0xFFFFFFF4 0 gray8)).em.started = true
      ∧ 2 ^ 32 - 1 < 12 + (0xFFFFFFF4#32).toNat
      ∧ 2 ^ 32 - 1 < 12 * max 1 ((0xFFFFFFF4 + 0x2000 - 1) / 0x2000) + 0xFFFFFFF4 := by decide

theorem test_witness_ArgumentAndDataErrors_arguments :
    7 < (args 8 0 0 0 gray8).arg0.toNat ∧ (passDims 4 9 9).1 ≤ 2 ∧ (passDims 2 3 3).2 ≤ 1
      ∧ (header 9 9 0 0).width.toNat ≤ 9 ∧ (emitting .reset 0x408 { args 0 0 0 0 gray8 with idatMax := 0 }).em.started = true
      ∧ { args 0 0 0 0 gray8 with idatMax := 0 }.idatMax = 0 := by decide

theorem test_witness_ArgumentAndDataErrors_data :
    (let o := args 0x100 0x200 0 0 gray8;
      let s := busy 0x801 o (bytes 0x100 [5])
      o.hdr.fmtValid = true ∧ 1 + o.hdr.rowBytes 0 ≤ u32Max ∧ RangesFit (.unfilterRow true) o s
        ∧ RangesApart (.unfilterRow true) o s ∧ 4 < (s.readByte 0x100).toNat)
      ∧ (let o := args 0x200 0x300 4 0 (header 0 0 0x002 0);
        let s := busy 0x0B o (bytes 0x200 [0, 1, 2, 4])
        o.hdr.fmtValid = true ∧ RangesFit .packRow o s ∧ RangesApart .packRow o s ∧ 3 < o.hdr.samples 4
          ∧ (∀ j < 3, beValue (s.memRead (0x200 + j * 1) 1) < 2 ^ 2) ∧ 2 ^ 2 ≤ beValue (s.memRead (0x200 + 3 * 1) 1))
      ∧ gray8.imageValid = true ∧ filteredBytes gray8.passRows ≤ u32Max ∧ 5 ≠ filteredBytes gray8.passRows
      ∧ 3 ≠ rawBytes gray8.passRows
      ∧ (let o := args 0x200 0x300 6 0 gray8;
        let s := busy 0x03 o (bytes 0x200 [0, 0x00, 0xFF, 9, 0x80, 0x41])
        o.arg2.toNat = filteredBytes o.hdr.passRows ∧ RangesFit .unfilterImage o s ∧ RangesApart .unfilterImage o s
          ∧ typeOffsets o.hdr.passRows 0 = [0] ++ 3 :: [] ∧ (∀ x ∈ [0], (s.readByte (0x200 + x)).toNat ≤ 4)
          ∧ 4 < (s.readByte (0x200 + 3)).toNat) := by decide

theorem test_witness_RangeErrors :
    (let o := args 0xFFFF 2 0 0 gray8;
      ¬RangesFit (.crcUpdate true true) o (busy 0x3018 o []))
      ∧ (let o := args 0x100 0x101 10 0 gray1;
        o.hdr.fmtValid = true ∧ 1 + o.hdr.rowBytes 10 ≤ u32Max ∧ o.hdr.samples 10 * o.hdr.sampleWidth ≤ u32Max
          ∧ RangesFit .unpackRow o (busy 0x0A o []) ∧ ¬RangesApart .unpackRow o (busy 0x0A o []))
      ∧ (let o := args 0x100 0x101 0 2 gray8;
        RangesFit (.unfilterRow true) o (busy 0x801 o []) ∧ ¬RangesApart (.unfilterRow true) o (busy 0x801 o []))
      ∧ (let o := args 0x100 0x103 4 0 gray8;
        o.hdr.imageValid = true ∧ o.arg2.toNat = rawBytes o.hdr.passRows ∧ RangesFit (.filterImage 0) o (busy 0x04 o [])
          ∧ ¬RangesApart (.filterImage 0) o (busy 0x04 o []))
      ∧ (let o := args 0xFFFB 0 6 0 gray8;
        o.arg2.toNat = filteredBytes o.hdr.passRows ∧ ¬RangesFit .unfilterImage o (busy 0x03 o [])) := by decide

theorem test_witness_SignatureErrors :
    (let o := args 0xFFFF 2 0 0 gray8;
      o.arg0.toNat + o.arg1.toNat ≤ 2 ^ 32 - 1 ∧ ¬(Range.mk o.arg0.toNat o.arg1.toNat).Fits (busy 0x20 o []).memSize)
      ∧ (let s := busy 0x20 (args 0 8 0 0 gray8) (bytes 0 [0x89, 0x50, 0x4E, 0x00]);
        (Range.mk 0 8).Fits s.memSize ∧ (∀ j < 3, s.readByte (0 + j) = byteAt pngSignature j)
          ∧ s.readByte (0 + 3) ≠ byteAt pngSignature 3)
      ∧ (let s := busy 0x20 (args 0 5 0 0 gray8) (bytes 0 pngSignature);
        (Range.mk 0 5).Fits s.memSize ∧ 5 < 8 ∧ ∀ j < 5, s.readByte (0 + j) = byteAt pngSignature j) := by decide

set_option maxRecDepth 20000 in
theorem test_witness_ParserErrors :
    (OperandRegs.reset.fr.sigOk = false)
      ∧ (let o := parsing ⟨true, ⟨true, false, .closed, true⟩, false, false⟩ 0x22D gray8;
        o.fr.order.iendSeen = true ∧ o.frCursor = o.frLimit)
      ∧ (let o := { parsing ⟨true, .reset, false, false⟩ 0xFFF8 gray8 with frLimit := 0x1FFFF };
        o.fr.sigOk = true ∧ o.fr.order.iendSeen = false
          ∧ ¬RangesFit .frNext o (busy 0x21 o (bytes 0xFFF8 [0, 0, 0, 0])))
      ∧ (let o := parsing ⟨true, ⟨true, false, .closed, true⟩, false, false⟩ 0x22C gray8;
        o.fr.sigOk = true ∧ o.fr.fail = false ∧ o.fr.done = false ∧ o.fr.order.iendSeen = true ∧ 0x22C < o.frLimit.toNat)
      ∧ (let o := parsing ⟨true, .reset, false, false⟩ 0x222 gray8;
        o.fr.order.iendSeen = false ∧ o.frLimit.toNat ≤ (busy 0x21 o []).memSize ∧ o.frLimit.toNat - 0x222 = 11)
      ∧ (let o := { parsing ⟨true, .reset, false, false⟩ 0x208 gray8 with frLimit := 0x220 };
        let s := busy 0x21 o (bytes 0x208 ihdrChunk)
        12 ≤ o.frLimit.toNat - 0x208 ∧ o.frLimit.toNat - 0x208 < 12 + beValue (s.memRead 0x208 4))
      ∧ (let o := { parsing ⟨true, .reset, false, false⟩ 0x208 gray8 with frLimit := 0x221 };
        let s := busy 0x21 o ((bytes 0x208 ihdrChunk).write 0x220 0)
        12 + beValue (s.memRead 0x208 4) ≤ o.frLimit.toNat - 0x208
          ∧ beValue (s.memRead (0x208 + 8 + 13) 4) ≠ (crc32 (s.memRead 0x20C 4 ++ s.memRead 0x210 13)).toNat)
      ∧ (let o := { parsing ⟨true, ⟨true, false, .noIdat, false⟩, false, false⟩ 0x208 gray8 with frLimit := 0x221 };
        let s := busy 0x21 o (bytes 0x208 ihdrChunk)
        beValue (s.memRead (0x208 + 8 + 13) 4) = (crc32 (s.memRead 0x20C 4 ++ s.memRead 0x210 13)).toNat
          ∧ firstFailure (acceptChecks o.fr.order 8 (s.memRead 0x20C 4) 13 (s.memRead 0x210 13))
            = some ⟨.dupIhdr, 8, 0x49484452⟩) := by decide

theorem test_witness_EmitterErrors_ranges :
    (0x400#32).toNat + (7#32).toNat ≤ 2 ^ 32 - 1 ∧ (7#32).toNat < 8
      ∧ 8 ≤ (0x10#32).toNat ∧ (busy 0x28 .reset []).memSize < (0xFFF8#32).toNat + (0x10#32).toNat
      ∧ (let o := emitting ⟨true, false, .closed, false⟩ 0x467 (args 0x74455874 0xFFFF 2 0 gray8);
        12 + 2 ≤ o.emLimit.toNat - o.emCursor.toNat ∧ 12 * max 1 ((2 + 8192 - 1) / 8192) + 2 ≤ o.emLimit.toNat - o.emCursor.toNat
          ∧ ¬RangesFit .emChunk o (busy 0x29 o []) ∧ ¬RangesFit .emIdat o (busy 0x2B o []))
      ∧ (let o := emitting ⟨true, false, .closed, false⟩ 0x467 (args 0x74455874 0x474 4 0 gray8);
        RangesFit .emChunk o (busy 0x29 o []) ∧ ¬RangesApart .emChunk o (busy 0x29 o [])
          ∧ RangesFit .emIdat o (busy 0x2B o []) ∧ ¬RangesApart .emIdat o (busy 0x2B o []))
      ∧ (let o := { emitting .reset 0x10000 (args 0 0 0 0 gray8) with emLimit := 0x20000 };
        25 ≤ o.emLimit.toNat - o.emCursor.toNat ∧ ¬RangesFit .emIhdr o (busy 0x2A o []) ∧ ¬RangesFit .emIend o (busy 0x2C o [])) := by decide

theorem test_witness_EmitterErrors :
    OperandRegs.reset.em.started = false
      ∧ (let o := emitting ⟨true, false, .closed, false⟩ 0x475 (args 0x74455874 0x300 0 0 gray8);
        o.em.started = true ∧ 12 + 0 ≤ 2 ^ 32 - 1 ∧ o.emLimit.toNat - o.emCursor.toNat < 12 ∧ o.idatMax ≠ 0
          ∧ 12 * max 1 ((0 + 8192 - 1) / 8192) + 0 ≤ 2 ^ 32 - 1)
      ∧ (let o := emitting ⟨true, false, .closed, true⟩ 0x467 (args 0x74455874 0x300 0 0 gray8);
        25 ≤ o.emLimit.toNat - o.emCursor.toNat ∧ RangesFit .emChunk o (busy 0x29 o []) ∧ RangesApart .emChunk o (busy 0x29 o [])
          ∧ RangesFit .emIdat o (busy 0x2B o []) ∧ RangesApart .emIdat o (busy 0x2B o [])
          ∧ RangesFit .emIhdr o (busy 0x2A o []) ∧ RangesFit .emIend o (busy 0x2C o [])
          ∧ (firstFailure (acceptChecks o.em.order 0x67 (bytesBE4 o.arg0) 0 [])).map Raise.code = some .afterIend
          ∧ (firstFailure (acceptChecks o.em.order 0x67 tIHDR 13 (headerPayload o.hdr))).map Raise.code = some .afterIend
          ∧ (firstFailure (acceptChecks o.em.order 0x67 tIDAT 0 [])).map Raise.code = some .afterIend
          ∧ (firstFailure (acceptChecks o.em.order 0x67 tIEND 0 [])).map Raise.code = some .afterIend) := by decide

theorem test_witness_ErrorsChangeNothingElse :
    let s := busy 0x21 .reset []
    s.phase = .busy ⟨0x21, .reset⟩ ∧ (∀ ty ∈ [FilterType.none, .sub, .up, .average, .paeth], Instr.frNext ≠ filterInstr ty)
      ∧ exec .frNext s = .next (after (exec .frNext s) s) ∧ got (exec .frNext s) failure = some (0x41, 0, 0) :=
  ⟨by decide, by decide, eq_next_of_got _ (by decide), by decide⟩

theorem test_witness_ParserFailureIsSticky :
    (let s := busy 0x22 .reset [];
      s.phase = .busy ⟨0x22, .reset⟩ ∧ s.status.err = false ∧ got (exec .frFinish s) (fun t => t.status.err) = some true)
      ∧ (let s := idle { OperandRegs.reset with fr := ⟨false, .reset, true, false⟩ } [];
        s.Inv ∧ s.raced = false ∧ s.regs.fr.fail = true ∧ step s = .next s)
      ∧ (busy 0x21 { OperandRegs.reset with fr := ⟨false, .reset, true, false⟩ } []).operands.fr.fail = true
      ∧ (busy 0x121 .reset []).phase = .busy ⟨0x121, .reset⟩ ∧ decodeCommand 0x121 = .error .fieldNotAllowed :=
  ⟨by decide, ⟨⟨by decide, by decide, ⟨rfl, rfl⟩⟩, rfl, rfl, rfl⟩, by decide, rfl, rfl⟩

theorem test_witness_CommandFrame :
    let s := busy 0x28 (args 0x400 64 0 0 gray8) []
    s.phase = .busy ⟨0x28, args 0x400 64 0 0 gray8⟩ ∧ exec .emStart s = .next (after (exec .emStart s) s)
      ∧ inRanges (writeSet .emStart (args 0x400 64 0 0 gray8)) 0x408 = false :=
  ⟨by decide, eq_next_of_got _ (by decide), by decide⟩

/-- FILTER_IMAGE of a 2×2 image, and UNFILTER_IMAGE of what it wrote. -/
def filtering : State := busy 0x504 (args 0x100 0x200 4 0 gray8) (bytes 0x100 [0x00, 0xFF, 0x80, 0x40])
def filtered : State := after (exec (.filterImage 5) filtering) filtering
def unfiltering : State := (idle (args 0x200 0x300 6 0 gray8) filtered.mem).accept 0x03

theorem test_witness_CommandsAlwaysComplete :
    let s := busy 0x08 .reset []
    let t := after (step { filtering with agenda := [.engineRow] }) filtering
    (s.Inv ∧ s.busy = true ∧ s.row = none) ∧ t.Inv ∧ t.busy = true ∧ t.row.map RowWalk.movesLeft = some 2 :=
  ⟨⟨⟨by decide, by decide, ⟨rfl, rfl⟩⟩, rfl, rfl⟩, ⟨by decide, by decide, ⟨rfl, rfl⟩⟩, by decide, by decide⟩

theorem test_witness_InvariantIsKept :
    let s := busy 0x08 .reset []
    s.Inv ∧ step s = .next (after (step s) s) :=
  ⟨⟨by decide, by decide, ⟨rfl, rfl⟩⟩, eq_next_of_got _ (by decide)⟩

theorem test_witness_StreamInvariantIsKept :
    let s := busy 0x2C (emitting ⟨true, false, .isOpen, false⟩ 0x474 (args 0 0 0 0 gray8)) []
    s.Inv ∧ s.StreamInv ∧ s.raced = false ∧ step s = .next (after (step s) s) :=
  ⟨⟨by decide, by decide, ⟨rfl, rfl⟩⟩, by decide, rfl, eq_next_of_got _ (by decide)⟩

/-- The host moves while a raced command runs. -/
theorem test_witness_StreamInvariantIsKept_host :
    let s := { busy 0x2C (emitting ⟨true, false, .isOpen, false⟩ 0x474 (args 0 0 0 0 gray8)) [] with
      raced := true, agenda := [.host (.memWrite 0x474 7)] }
    s.Inv ∧ s.StreamInv ∧ s.raced = true ∧ step s = .next (after (step s) s) :=
  ⟨⟨by decide, by decide, ⟨rfl, rfl⟩⟩, by decide, rfl, eq_next_of_got _ (by decide)⟩

theorem test_witness_FilterRoundTrip : 1 ≤ 3 ∧ [1#8, 2, 3, 4].length = [5#8, 6, 7, 8].length := by decide

theorem test_witness_ImageRoundTrip :
    let o := args 0x200 0x300 6 0 gray8
    filtering.phase = .busy ⟨0x504, args 0x100 0x200 4 0 gray8⟩ ∧ exec (.filterImage 5) filtering = .next filtered
      ∧ filtered.status.err = false ∧ unfiltering.phase = .busy ⟨0x03, o⟩ ∧ unfiltering.status.err = false
      ∧ o.arg2.toNat = filteredBytes gray8.passRows ∧ unfiltering.memRead 0x200 6 = filtered.memRead 0x200 6
      ∧ RangesFit .unfilterImage o unfiltering ∧ RangesApart .unfilterImage o unfiltering :=
  ⟨by decide, eq_next_of_got _ (by decide), by decide, rfl, rfl, by decide, by decide, by decide, by decide⟩

theorem test_witness_PackUnpackRoundTrip :
    let row : List Byte := [0xA5, 0xC0]
    gray1.fmtValid = true ∧ row.length = gray1.rowBytes 10
      ∧ (byteAt row (gray1.rowBytes 10 - 1)).toNat % 2 ^ (8 * gray1.rowBytes 10 - gray1.samples 10 * gray1.bitDepth) = 0
      ∧ [1, 0, 1, 0, 0, 1, 0, 1, 1, 1].length = gray1.samples 10
      ∧ ∀ v ∈ [1, 0, 1, 0, 0, 1, 0, 1, 1, 1], v < 2 ^ gray1.bitDepth := by decide

theorem test_witness_Adam7Partition :
    (1 ≤ 7 ∧ 7 ≤ 7 ∧ 8 < (passDims 7 9 9).1 ∧ 3 < (passDims 7 9 9).2) ∧ 8 < 9 ∧ 7 < 9 ∧ imageX 7 8 = 8 ∧ imageY 7 3 = 7 := by
  decide

theorem test_witness_ScanlinesRefineTheCommand :
    let s := filtering
    let r := busy 0x03 (args 0x200 0x300 5 0 gray8) []
    s.raced = false ∧ s.row = none ∧ decodeCommand 0x504 = .ok (.filterImage 5)
      ∧ s.engineMove false = .next (after (s.engineMove false) s) ∧ (after (s.engineMove false) s).status.err = false
      ∧ r.row = none ∧ decodeCommand 0x03 = .ok .unfilterImage
      ∧ r.engineMove false = .next (after (r.engineMove false) r) ∧ (after (r.engineMove false) r).status.err = true :=
  ⟨rfl, rfl, rfl, eq_next_of_got _ (by decide), by decide, rfl, rfl, eq_next_of_got _ (by decide), by decide⟩

/-- EM_CHUNK of a 'tEXt' chunk, and FR_NEXT where it stands. -/
def emitting1 : State :=
  busy 0x29 (emitting ⟨true, false, .isOpen, false⟩ 0x45B (args 0x74455874 0x300 2 0 gray8)) (bytes 0x300 [1, 2])
def emitted1 : State := after (exec .emChunk emitting1) emitting1
def parsing1 : OperandRegs :=
  { args 0 0 0 0 gray8 with
    fr := ⟨true, ⟨true, false, .isOpen, false⟩, false, false⟩, frBase := 0x400, frCursor := 0x45B, frLimit := 0x469 }

set_option maxRecDepth 20000 in
theorem test_witness_EmittedChunkParses :
    exec .emChunk emitting1 = .next emitted1 ∧ emitted1.status.err = false
      ∧ (busy 0x21 parsing1 emitted1.mem).phase = .busy ⟨0x21, parsing1⟩
      ∧ parsing1.fr.order = emitting1.operands.em.order ∧ parsing1.frCursor = emitting1.operands.emCursor
      ∧ 0x45B + 12 + 2 ≤ parsing1.frLimit.toNat ∧ parsing1.frLimit.toNat ≤ (busy 0x21 parsing1 emitted1.mem).memSize
      ∧ (busy 0x21 parsing1 emitted1.mem).memRead 0x45B 14 = emitted1.memRead 0x45B 14 :=
  ⟨eq_next_of_got _ (by decide), by decide, rfl, rfl, rfl, by decide, by decide, by decide⟩

end Sys2Proof.Tests
end

section
/-!
PROOFS. FILTER_ROW (43_filter_engine.md R207): the checks and the written bytes of a row command, rows given byte by
byte, and the selected type, each said once; then the statement.
-/

namespace Sys2Proof.Machine

/-! ### Checks -/

/-- Checks that hold do not matter. -/
theorem conclude_append {xs ys : List Check} {f : Raise → State} {o : Host.Outcome State Fault Refusal}
    (h : allHold xs) : conclude (xs ++ ys) f o = conclude ys f o := by
  simp only [conclude, firstFailure_append h]

theorem conclude_singleton (c : Check) (f : Raise → State) (o : Host.Outcome State Fault Refusal) :
    conclude [c] f o = if c.holds then o else .next (f c.orRaise) := by
  cases hc : c.holds <;> simp [conclude, firstFailure, hc]

theorem Range.overlaps_eq_false_iff_apart {p q : Range} : p.overlaps q = false ↔ p.Apart q := by
  rw [Range.overlaps_eq_false, Range.Apart]
  omega

/-- Steps 7 and 8 of R112 hold exactly when the ranges fit the memory and the written ones meet no read one. -/
theorem allHold_rangeChecks {i : Instr} {o : OperandRegs} {s : State} :
    allHold (rangeChecks i o s) ↔ RangesFit i o s ∧ RangesApart i o s := by
  simp only [rangeChecks, allHold_append, allHold_boundsChecks, allHold_overlapChecks, Range.inBounds_iff,
    Range.overlaps_eq_false_iff_apart]

/-! ### The memory of a completed command -/

section completed
variable {s : State} {a k : Nat} {bs : List Byte} {g : OperandRegs} {r0 r1 r2 r3 : Word}

theorem readByte_completed_inside (h : k < bs.length) :
    (s.completed (Memory.writeBytes s.mem a bs) g r0 r1 r2 r3).readByte (a + k) = bs.getD k 0 :=
  State.readByte_memWrite_inside (s := s) h

theorem sameOutside_completed :
    SameOutside s (s.completed (Memory.writeBytes s.mem a bs) g r0 r1 r2 r3) ⟨a, bs.length⟩ :=
  fun _ h => State.readByte_memWrite_outside (s := s) h

end completed

/-! ### Rows given byte by byte -/

theorem byteAt_map_range {f : Nat → Byte} {n i : Nat} (h : i < n) : byteAt ((List.range n).map f) i = f i := by
  simp [byteAt, List.getD_eq_getElem?_getD, h]

/-- The left neighbour in a byte sequence is the one of R190. -/
theorem leftByte_map_range {f : Nat → Byte} {bpp n i : Nat} (h : i < n) :
    leftByte bpp ((List.range n).map f) i = neighbour bpp i f := by
  rw [leftByte, neighbour, byteAt_map_range (by omega)]

/-- Byte `i` of the filtered row: raw[i] − Pred(t, a, b, c) (R199-R203). -/
def filteredByte (t : FilterType) (bpp : Nat) (raw prior : Nat → Byte) (i : Nat) : Byte :=
  raw i - predictor t (neighbour bpp i raw) (prior i) (neighbour bpp i prior)

theorem filterBytes_map_range (t : FilterType) (bpp n : Nat) (raw prior : Nat → Byte) :
    filterBytes t bpp ((List.range n).map raw) ((List.range n).map prior)
      = (List.range n).map (filteredByte t bpp raw prior) := by
  simp only [filterBytes, List.length_map, List.length_range]
  refine List.map_congr_left fun i hi => ?_
  have hi : i < n := List.mem_range.mp hi
  simp only [predictAt, filteredByte, byteAt_map_range hi, leftByte_map_range hi]

theorem filterScore_map_range (f : Nat → Byte) (n : Nat) :
    filterScore ((List.range n).map f) = ((List.range n).map fun i => min (f i).toNat (256 - (f i).toNat)).sum := by
  rw [filterScore, List.map_map]
  rfl

/-- Byte `i` of the prior row a row command names: 0 with ZP (R206). -/
def State.priorByte (s : State) (o : OperandRegs) (zp : Bool) (i : Nat) : Byte :=
  if zp then 0 else s.readByte (o.arg2.toNat + i)

theorem State.priorRow_eq_map (s : State) (o : OperandRegs) (zp : Bool) (n : Nat) :
    s.priorRow o zp n = (List.range n).map (s.priorByte o zp) := by
  cases zp with
  | false => rfl
  | true =>
    calc s.priorRow o true n = List.replicate n 0 := rfl
      _ = (List.range n).map fun _ => 0 := by simp

/-! ### The selected type (R83, R204) -/

@[simp] theorem filterTypeOf_code (t : FilterType) : filterTypeOf t.code = some t := by
  cases t <;> rfl

/-- FT up to 4 selects the type with that code. -/
theorem selectType_of_code {ft : BitVec 3} {t : FilterType} (h : t.code = ft.setWidth 8) (bpp : Nat)
    (raw prior : List Byte) : selectType ft bpp raw prior = t := by
  rw [selectType, ← h, filterTypeOf_code, Option.getD_some]

/-- FT 5 is AUTO. -/
theorem selectType_auto (bpp : Nat) (raw prior : List Byte) : selectType 5 bpp raw prior = autoType bpp raw prior :=
  rfl

theorem selectType_eq {ft : BitVec 3} {t : FilterType} {bpp : Nat} {raw prior : List Byte} (hft : ft.toNat ≤ 5)
    (hcode : ft.toNat ≤ 4 → t.code = ft.setWidth 8) (hauto : ft = 5 → t = autoType bpp raw prior) :
    selectType ft bpp raw prior = t := by
  rcases Nat.lt_or_eq_of_le hft with h | h
  · exact selectType_of_code (hcode (Nat.le_of_lt_succ h)) bpp raw prior
  · have h5 : ft = 5 := BitVec.eq_of_toNat_eq h
    rw [hauto h5, h5, selectType_auto]

/-! ### FILTER_ROW (R207) -/

/-- FILTER_ROW past the checks it makes before it knows the score (log 20): a score that fits lets the row of type `t`
and filtered bytes `f` be written, and one that does not raises E_OVERFLOW. -/
theorem exec_filterRow_of_checks {s : State} {l : Latched} {ft : BitVec 3} {zp : Bool} {t : FilterType} {f : List Byte}
    (hbusy : s.phase = .busy l) :
    let o := l.regs
    let h := o.hdr
    let rb := h.rowBytes o.arg3.toNat
    let raw := s.memRead o.arg0.toNat rb
    let prior := s.priorRow o zp rb
    ft.toNat ≤ 5 → h.fmtValid = true → 1 + rb ≤ u32Max → RangesFit (.filterRow ft zp) o s →
    RangesApart (.filterRow ft zp) o s → selectType ft h.bpp raw prior = t → filterBytes t h.bpp raw prior = f →
      exec (.filterRow ft zp) s =
        if filterScore f ≤ u32Max then
          .next (s.completed (Memory.writeBytes s.mem o.arg1.toNat (t.code :: f)) s.regs (t.code.setWidth 32)
            (u32 (filterScore f)) (u32 (1 + rb)) 0)
        else .next (s.failWith (raise .overflow)) := by
  intro o h rb raw prior hft hfmt hlen hfit hapart ht hf
  have hchecks : allHold ([ftCheck ft, fmtCheck h, filteredRowFitsCheck h o.arg3.toNat]
      ++ rangeChecks (.filterRow ft zp) o s) := by
    refine allHold_append.mpr ⟨?_, allHold_rangeChecks.mpr ⟨hfit, hapart⟩⟩
    simpa [allHold, ftCheck, ftLegal, fmtCheck, filteredRowFitsCheck, Header.filteredRowFits] using ⟨hft, hfmt, hlen⟩
  calc exec (.filterRow ft zp) s = execFilterRow ft zp s := rfl
    _ = conclude [scoreFitsCheck f] s.failWith _ := by
      simp only [execFilterRow, State.operands_busy hbusy]
      rw [ht, filteredRow, hf, conclude_append hchecks, write_completed]
    _ = _ := by simp only [conclude_singleton, scoreFitsCheck, decide_eq_true_eq, o, h, rb]

/-- Settles O34: the score decides between the filtered row and E_OVERFLOW. -/
theorem rowIsFiltered : Obligations.RowIsFiltered := by
  intro s l ft zp t hbusy o h rb raw prior filtered score hft hfmt hlen hfit hapart hcode hauto
  have hprior : s.priorRow o zp rb = (List.range rb).map prior := State.priorRow_eq_map s o zp rb
  have ht : selectType ft h.bpp (s.memRead o.arg0.toNat rb) (s.priorRow o zp rb) = t :=
    selectType_eq hft hcode (hprior ▸ hauto)
  have hf : filterBytes t h.bpp (s.memRead o.arg0.toNat rb) (s.priorRow o zp rb) = (List.range rb).map filtered :=
    hprior ▸ filterBytes_map_range t h.bpp rb raw prior
  have hscore : filterScore ((List.range rb).map filtered) = score := filterScore_map_range filtered rb
  have hlength : (t.code :: (List.range rb).map filtered).length = 1 + rb := by simp [Nat.add_comm]
  have hexec := exec_filterRow_of_checks hbusy hft hfmt hlen hfit hapart ht hf
  rw [hscore] at hexec
  refine ⟨fun hle => ?_, fun hlt => hexec.trans (if_neg (Nat.not_le.mpr hlt))⟩
  refine ⟨_, hexec.trans (if_pos hle), rfl, hlength ▸ sameOutside_completed, ?_, fun i hi => ?_⟩
  · exact readByte_completed_inside (k := 0) (by omega)
  · rw [Nat.add_assoc, readByte_completed_inside (by omega), Nat.add_comm, List.getD_cons_succ]
    exact byteAt_map_range hi

end Sys2Proof.Machine
end

section
/-!
PROOFS. What a step can do, said once: the moves of the host (10_state.md R20, R44; 20_memory.md R73) and of the engine
(40_command_issue.md R112-R115). Then the invariant that every step keeps.
-/

namespace Sys2Proof.Machine

/-! ### Commands of the command word -/

/-- No command word stands for a filter-type byte (30_encoding.md R81). -/
theorem opcodeRow_make_ne_filterInstr {op : Nat} {row : OpcodeRow} (h : opcodeRow op = some row) (ft : BitVec 3)
    (zp ci cf : Bool) (ty : FilterType) : row.make ft zp ci cf ≠ filterInstr ty := by
  unfold opcodeRow at h
  split at h <;> cases h <;> cases ty <;> nofun

theorem decodeCommand_ne_filterInstr {w : Word} {i : Instr} (h : decodeCommand w = .ok i) (ty : FilterType) :
    i ≠ filterInstr ty := by
  simp only [decodeCommand] at h
  split_ifs at h
  split at h
  · cases h
  · rename_i row hrow
    split_ifs at h
    cases h
    exact opcodeRow_make_ne_filterInstr hrow _ _ _ _ ty

/-- A byte that decodes is a filter type's code (30_encoding.md R92). -/
theorem decodeFilterByte_eq_ok {b : Byte} {i : Instr} (h : decodeFilterByte b = .ok i) :
    ∃ ty, filterTypeOf b = some ty ∧ i = filterInstr ty := by
  unfold decodeFilterByte at h
  split at h
  · rename_i ty hty
    cases h
    exact ⟨ty, hty, rfl⟩
  · cases h

/-! ### One scanline -/

/-- The row of bytes lies in the memory, or is empty. -/
abbrev RowFits (a : Nat) (bs : List Byte) (size : Nat) : Prop := bs = [] ∨ a + bs.length ≤ size

theorem rowFits_of_inBounds {a n size : Nat} {bs : List Byte} (h : (Range.mk a n).inBounds size = true)
    (hn : bs.length = n) : RowFits a bs size := by
  rcases Range.inBounds_iff.mp h with h | h
  · exact .inl (List.length_eq_zero_iff.mp (hn.trans h))
  · exact .inr (hn ▸ h)

/-- The end of a walk is a success that writes the scanline's bytes. -/
theorem State.afterRow_none (s : State) (k : WalkKind) (a : Nat) (bs : List Byte) :
    ∃ r0 r1, (s.memWrite a bs).afterRow k none = s.completed (Memory.writeBytes s.mem a bs) s.regs r0 r1 0 0 := by
  cases k <;> exact ⟨_, _, rfl⟩

/-! ### The engine -/

/-- What the engine's move does to a running command that the host has not raced with. -/
inductive EngineDoes (s : State) (byRows : Bool) : State → Prop where
  /-- An error entry other than a command's own: an illegal word, a failed check of an image command that begins its
  walk, a scanline with a bad type byte or outside the memory. -/
  | fails (r : Raise) : EngineDoes s byRows (s.failWith r)
  /-- The whole command. -/
  | runs (i : Instr) (t : State) (hi : ∀ ty, i ≠ filterInstr ty) (hrow : s.row = none) (h : exec i s = .next t) :
    EngineDoes s byRows t
  /-- An image command begins its walk. -/
  | begins (w : RowWalk) (hrow : s.row = none) (hrows : byRows = true) : EngineDoes s byRows { s with row := some w }
  /-- A scanline after which the walk goes on. -/
  | walks (w v : RowWalk) (a : Nat) (bs : List Byte) (hrow : s.row = some w) (hleft : v.movesLeft < w.movesLeft)
    (hfits : RowFits a bs s.memSize) : EngineDoes s byRows { s.memWrite a bs with row := some v }
  /-- The last scanline. -/
  | ends (w : RowWalk) (a : Nat) (bs : List Byte) (r0 r1 : Word) (hrow : s.row = some w)
    (hfits : RowFits a bs s.memSize) :
    EngineDoes s byRows (s.completed (Memory.writeBytes s.mem a bs) s.regs r0 r1 0 0)

section engine
variable {s t : State} {b : Bool}

/-- A scanline that writes in range leaves the walk going on, with fewer moves left, or the command completed. -/
theorem engineDoes_afterRow {w : RowWalk} {used made : Nat} {row bs : List Byte} {a : Nat} (hrow : s.row = some w)
    (hfits : RowFits a bs s.memSize) :
    EngineDoes s b ((s.memWrite a bs).afterRow w.kind (w.advance used made row)) := by
  cases h : w.advance used made row with
  | some v => exact .walks w v a bs hrow (RowWalk.movesLeft_advance h) hfits
  | none =>
    obtain ⟨r0, r1, he⟩ := State.afterRow_none s w.kind a bs
    exact he ▸ .ends w a bs r0 r1 hrow hfits

/-- A scanline writes in range, or raises E_BOUNDS. -/
theorem guardedScanline_does {w : RowWalk} {c : Bool} {a n used made : Nat} {row bs : List Byte} (r : Raise)
    (hrow : s.row = some w) (hn : bs.length = n) :
    ∃ t, (if (c && (Range.mk a n).inBounds s.memSize) = true then
        Host.Outcome.next ((s.memWrite a bs).afterRow w.kind (w.advance used made row))
      else .next (s.failWith r) : Host.Outcome State Fault Refusal) = .next t ∧ EngineDoes s b t := by
  split_ifs with h
  · exact ⟨_, rfl, engineDoes_afterRow hrow (rowFits_of_inBounds (Bool.and_eq_true_iff.mp h).2 hn)⟩
  · exact ⟨_, rfl, .fails r⟩

theorem filterScanline_does {ty : FilterType} {w : RowWalk} (hrow : s.row = some w) :
    ∃ t, filterScanline ty s = .next t ∧ EngineDoes s b t := by
  simp only [filterScanline, hrow]
  split
  · exact guardedScanline_does _ hrow (by simp)
  · exact guardedScanline_does _ hrow (by simp)

theorem scanlineMove_does {w : RowWalk} (hrow : s.row = some w) :
    ∃ t, s.scanlineMove w = .next t ∧ EngineDoes s b t := by
  unfold State.scanlineMove
  split
  · split
    · rename_i i hi
      obtain ⟨ty, -, rfl⟩ := decodeFilterByte_eq_ok hi
      exact exec_filterInstr ty s ▸ filterScanline_does hrow
    · exact ⟨_, rfl, .fails _⟩
  · exact exec_filterInstr _ s ▸ filterScanline_does hrow

theorem exec_engineDoes {i : Instr} (hi : ∀ ty, i ≠ filterInstr ty) (hrow : s.row = none) :
    ∃ t, exec i s = .next t ∧ EngineDoes s b t :=
  let ⟨t, ht⟩ := exec_answers hi s
  ⟨t, ht, .runs i t hi hrow ht⟩

theorem beginWalk_does {cs : List Check} {k : WalkKind} {i : Instr} (hi : ∀ ty, i ≠ filterInstr ty)
    (hrow : s.row = none) : ∃ t, beginWalk cs k (exec i s) s = .next t ∧ EngineDoes s true t := by
  unfold beginWalk
  split
  · rename_i w _
    obtain ⟨t, ht⟩ := conclude_answers cs s.failWith { s with row := some w }
    refine ⟨t, ht, ?_⟩
    rcases conclude_next ht with ⟨r, -, rfl⟩ | ⟨-, h⟩
    · exact .fails r
    · cases h
      exact .begins w hrow rfl
  · exact exec_engineDoes hi hrow

theorem beginByRows_does {i : Instr} (hi : ∀ ty, i ≠ filterInstr ty) (hrow : s.row = none) :
    ∃ t, beginByRows i s = .next t ∧ EngineDoes s true t := by
  unfold beginByRows
  split
  · exact beginWalk_does hi hrow
  · exact beginWalk_does hi hrow
  · exact exec_engineDoes hi hrow

/-- The engine's move on a running command that is not raced always answers (R115), and does one of these things. -/
theorem engineMove_does {l : Latched} (hbusy : s.phase = .busy l) (hraced : s.raced = false) :
    ∃ t, s.engineMove b = .next t ∧ EngineDoes s b t := by
  simp only [State.engineMove, hbusy, hraced, Bool.false_eq_true, if_false]
  split
  · rename_i w hrow
    exact scanlineMove_does hrow
  · rename_i hrow
    split
    · exact ⟨_, rfl, .fails _⟩
    · rename_i i hi
      have hi := decodeCommand_ne_filterInstr hi
      cases b with
      | true => exact beginByRows_does hi hrow
      | false => exact exec_engineDoes hi hrow

theorem engineMove_idle (h : s.phase = .idle) : s.engineMove b = .next s := by
  simp [State.engineMove, h]

theorem engineMove_raced {l : Latched} (h : s.phase = .busy l) (hr : s.raced = true) :
    s.engineMove b = .next s.racedCompletion := by
  simp [State.engineMove, h, hr]

/-- Everything the engine's move can do. -/
theorem engineMove_cases (h : s.engineMove b = .next t) :
    s.phase = .idle ∧ t = s
      ∨ ∃ l, s.phase = .busy l ∧ (s.raced = true ∧ t = s.racedCompletion ∨ s.raced = false ∧ EngineDoes s b t) := by
  cases hp : s.phase with
  | idle =>
    rw [engineMove_idle hp] at h
    exact .inl ⟨rfl, (Host.Outcome.next.inj h).symm⟩
  | busy l =>
    refine .inr ⟨l, rfl, ?_⟩
    cases hr : s.raced with
    | true =>
      rw [engineMove_raced hp hr] at h
      exact .inl ⟨rfl, (Host.Outcome.next.inj h).symm⟩
    | false =>
      obtain ⟨u, hu, hdoes⟩ := engineMove_does (b := b) hp hr
      exact .inr ⟨rfl, Host.Outcome.next.inj (hu.symm.trans h) ▸ hdoes⟩

end engine

/-! ### The host -/

/-- The registers of the parser (10_state.md R36-R39) are the same. -/
abbrev OperandRegs.SameFramer (g g' : OperandRegs) : Prop :=
  g'.fr = g.fr ∧ g'.frBase = g.frBase ∧ g'.frCursor = g.frCursor ∧ g'.frLimit = g.frLimit

/-- The registers of the emitter (10_state.md R40-R43) are the same. -/
abbrev OperandRegs.SameEmitter (g g' : OperandRegs) : Prop :=
  g'.em = g.em ∧ g'.emBase = g.emBase ∧ g'.emCursor = g.emCursor ∧ g'.emLimit = g.emLimit

/-- What a host operation can do. -/
inductive HostDoes (s : State) : State → Prop where
  /-- A write to a read-only or reserved offset (R20). -/
  | ignores : HostDoes s s
  /-- A write that is dropped with LOST (R44). -/
  | drops : HostDoes s s.setLost
  /-- A write to CMD while idle (R110). -/
  | accepts (w : Word) (h : s.phase = .idle) : HostDoes s (s.accept w)
  /-- A write to CTRL (R24). -/
  | controls (v : Word) : HostDoes s (s.writeCtrl v)
  /-- A write to an operand register while idle (R25): none of them is the parser's or the emitter's. -/
  | stores (g : OperandRegs) (h : s.phase = .idle) (hfr : s.regs.SameFramer g) (hem : s.regs.SameEmitter g) :
    HostDoes s { s with regs := g }
  /-- A read, or a sample of IRQ (log 5, log 6). -/
  | reads (v : Word) (k : Nat) : HostDoes s { s with hostData := v, free := k }
  /-- A write of one buffer byte (20_memory.md R73). -/
  | pokes (a : Nat) (v : Byte) (h : a < s.memSize) :
    HostDoes s { s.memWrite a [v] with raced := s.raced || inRanges (s.runningReads ++ s.runningWrites) a }
  /-- Power goes and comes back (R270). -/
  | powers : HostDoes s s.powerOn

section host
variable {s t : State}

theorem State.busy_eq_false : s.busy = false ↔ s.phase = .idle := by
  unfold State.busy
  split <;> simp [*]

theorem writeReg_does_idle {r : Reg} {v : Word} (h : s.phase = .idle) : HostDoes s (s.writeReg r v) := by
  cases r with
  | cmd => exact .accepts v h
  | ctrl => exact .controls v
  | arg0 | arg1 | arg2 | arg3 | crc | idatMax | hdrWidth | hdrHeight | hdrFmt | hdrIl =>
    exact .stores _ h ⟨rfl, rfl, rfl, rfl⟩ ⟨rfl, rfl, rfl, rfl⟩
  | id | status | res0 | res1 | res2 | res3 | errOffset | errChunk => exact .ignores
  | frState | frBase | frCursor | frLimit | emState | emBase | emCursor | emLimit => exact .ignores

/-- A register that is not locked while BUSY ignores the write, but for CTRL. -/
theorem writeReg_does_unlocked {r : Reg} {v : Word} (h : r.lockedWhileBusy = false) : HostDoes s (s.writeReg r v) := by
  cases r with
  | ctrl => exact .controls v
  | cmd | arg0 | arg1 | arg2 | arg3 | crc | idatMax | hdrWidth | hdrHeight | hdrFmt | hdrIl => cases h
  | id | status | res0 | res1 | res2 | res3 | errOffset | errChunk => exact .ignores
  | frState | frBase | frCursor | frLimit | emState | emBase | emCursor | emLimit => exact .ignores

theorem hostRegWrite_does {offset : BitVec 8} {width : AccessWidth} {v : Word}
    (h : s.hostRegWrite offset width v = .next t) : HostDoes s t := by
  unfold State.hostRegWrite at h
  split_ifs at h
  split at h
  · cases h
    exact .ignores
  · rename_i r _
    cases h
    split_ifs with hl
    · exact .drops
    · cases hb : s.busy with
      | false => exact writeReg_does_idle (State.busy_eq_false.mp hb)
      | true => exact writeReg_does_unlocked (by simpa [hb] using hl)

theorem hostRegRead_does {offset : BitVec 8} {width : AccessWidth} (h : s.hostRegRead offset width = .next t) :
    HostDoes s t := by
  unfold State.hostRegRead at h
  split_ifs at h
  split at h
  · cases h
    exact .reads 0 s.free
  · cases h
    split_ifs
    · exact .reads _ _
    · exact .reads _ s.free

/-- Everything a host operation can do. -/
theorem hostMove_does {op : HostOp} (h : s.hostMove op = .next t) : HostDoes s t := by
  cases op with
  | regWrite offset width v => exact hostRegWrite_does h
  | regRead offset width => exact hostRegRead_does h
  | memWrite addr v =>
    simp only [State.hostMove, State.hostMemWrite] at h
    split_ifs at h with ha
    cases h
    exact .pokes _ _ ha
  | memRead addr =>
    simp only [State.hostMove, State.hostMemRead] at h
    split_ifs at h
    · cases h
      exact .reads _ _
    · cases h
      exact .reads _ s.free
  | irqSample =>
    cases h
    exact .reads _ s.free
  | powerOn =>
    cases h
    exact .powers

end host

/-! ### The step -/

theorem State.dropEvent_of_nil {s : State} (h : s.agenda = []) : s.dropEvent = s := by
  cases s
  simp_all [State.dropEvent]

/-- A step is a host operation, or a move of the engine, with the first event taken off (log 3). -/
theorem step_cases {s t : State} (h : step s = .next t) :
    (∃ op rest, s.agenda = .host op :: rest ∧ HostDoes s.dropEvent t)
      ∨ (∀ op rest, s.agenda ≠ .host op :: rest) ∧ ∃ b, s.dropEvent.engineMove b = .next t := by
  unfold step at h
  split at h
  · rename_i ha
    exact .inr ⟨by simp [ha], false, by rwa [State.dropEvent_of_nil ha]⟩
  · rename_i ha
    exact .inr ⟨by simp [ha], false, h⟩
  · rename_i ha
    exact .inr ⟨by simp [ha], true, h⟩
  · rename_i op rest ha
    exact .inl ⟨op, rest, ha, hostMove_does h⟩

/-! ### The invariant -/

section invariant
variable {s : State} {l : Latched}

theorem ErrCode.code_ne_zero (e : ErrCode) : e.code ≠ 0#8 := by
  cases e <;> decide

theorem State.busy_of_phase (h : s.phase = .busy l) : s.busy = true := by
  simp [State.busy, h]

theorem State.MemInv.memWrite (h : s.MemInv) {a : Nat} {bs : List Byte} (hfits : RowFits a bs s.memSize) :
    (s.memWrite a bs).MemInv :=
  ⟨Memory.writeBytes_wf bs h.1 a, Memory.writeBytes_below h.2.1 hfits, h.2.2⟩

theorem State.MemInv.scramble (h : s.MemInv) (r : Range) : (s.scramble r).MemInv := by
  refine h.memWrite ?_
  exact (Range.clip_fits r s.memSize).imp (fun h0 => List.length_eq_zero_iff.mp (by simpa using h0)) (by simp)

theorem State.MemInv.scrambleAll (h : s.MemInv) (rs : List Range) : (s.scrambleAll rs).MemInv := by
  induction rs generalizing s with
  | nil => exact h
  | cons r rs ih => exact ih (h.scramble r)

/-- R23 while BUSY = 1: DONE, ERR and ERRCODE are 0. -/
theorem State.StatusInv.of_busy (h : s.StatusInv) (hb : s.phase = .busy l) :
    s.status.done = false ∧ s.status.err = false ∧ s.status.errCode = 0 := by
  obtain ⟨hdone, herr, -, hcode⟩ := h
  have hb := State.busy_of_phase hb
  have herr : s.status.err = false := by simpa [hb] using herr
  exact ⟨by simpa [hb] using hdone, herr, by simpa [herr] using hcode⟩

theorem State.Inv.failWith (h : s.Inv) (hb : s.phase = .busy l) (r : Raise) : (s.failWith r).Inv := by
  obtain ⟨hmem, hstatus, -⟩ := h
  obtain ⟨hdone, -, -⟩ := hstatus.of_busy hb
  exact ⟨hmem, by simp [State.StatusInv, State.busy, hdone, r.code.code_ne_zero], rfl, rfl⟩

theorem State.Inv.failAs (h : s.Inv) (hb : s.phase = .busy l) (i : Instr) (r : Raise) : (s.failAs i r).Inv := by
  unfold State.failAs
  split_ifs
  · exact h.failWith hb r
  · exact h.failWith hb r

theorem State.Inv.completed (h : s.Inv) (hb : s.phase = .busy l) {a : Nat} {bs : List Byte}
    (hfits : RowFits a bs s.memSize) (g : OperandRegs) (r0 r1 r2 r3 : Word) :
    (s.completed (Memory.writeBytes s.mem a bs) g r0 r1 r2 r3).Inv := by
  obtain ⟨hmem, hstatus, -⟩ := h
  obtain ⟨-, herr, hcode⟩ := hstatus.of_busy hb
  exact ⟨hmem.memWrite hfits, by simp [State.StatusInv, State.busy, State.completed, herr, hcode], rfl, rfl⟩

/-- What a command may write lies in the memory. -/
theorem WriteAllowed.rowFits {i : Instr} {o : OperandRegs} {size a : Nat} {bs : List Byte}
    (h : WriteAllowed i o size a bs.length) : RowFits a bs size :=
  h.imp List.length_eq_zero_iff.mp And.right

/-- Every command keeps the invariant. -/
theorem State.Inv.exec {t : State} {i : Instr} (h : s.Inv) (hb : s.phase = .busy l) (hi : ∀ ty, i ≠ filterInstr ty)
    (ht : exec i s = .next t) : t.Inv := by
  rcases exec_does hi ht with ⟨r, rfl⟩ | ⟨a, bs, g, r0, r1, r2, r3, rfl, hw⟩
  · exact h.failAs hb i r
  · exact h.completed hb hw.rowFits g r0 r1 r2 r3

/-- While BUSY = 1 the row context may be anything (R47). -/
theorem State.Inv.withRow (h : s.Inv) (hb : s.phase = .busy l) (w : RowWalk) :
    State.Inv { s with row := some w } := by
  obtain ⟨hmem, hstatus, hphase⟩ := h
  exact ⟨hmem, hstatus, by simpa only [State.PhaseInv, hb] using hphase⟩

theorem State.Inv.memWrite (h : s.Inv) {a : Nat} {bs : List Byte} (hfits : RowFits a bs s.memSize) :
    (s.memWrite a bs).Inv :=
  ⟨State.MemInv.memWrite h.1 hfits, h.2⟩

theorem State.Inv.engineDoes {t : State} {b : Bool} (h : s.Inv) (hb : s.phase = .busy l) (ht : EngineDoes s b t) :
    t.Inv := by
  cases ht with
  | fails r => exact h.failWith hb r
  | runs i t hi hrow ht => exact h.exec hb hi ht
  | begins w hrow hrows => exact h.withRow hb w
  | walks w v a bs hrow hleft hfits => exact (h.memWrite hfits).withRow hb v
  | ends w a bs r0 r1 hrow hfits => exact h.completed hb hfits s.regs r0 r1 0 0

theorem State.Inv.racedCompletion (h : s.Inv) : s.racedCompletion.Inv := by
  obtain ⟨hmem, hstatus, -⟩ := h
  refine ⟨hmem.scrambleAll s.runningWrites, ?_, rfl, rfl⟩
  cases hok : (Config.freeWord ((s.scrambleAll s.runningWrites).free + 19)).getLsbD 0 <;>
    simp [State.StatusInv, State.busy, State.racedCompletion, hok, ErrCode.code_ne_zero]

/-- Every move of the engine keeps the invariant. -/
theorem State.Inv.engineMove {t : State} {b : Bool} (h : s.Inv) (ht : s.engineMove b = .next t) : t.Inv := by
  rcases engineMove_cases ht with ⟨-, rfl⟩ | ⟨l, hb, ⟨-, rfl⟩ | ⟨-, hdoes⟩⟩
  · exact h
  · exact h.racedCompletion
  · exact h.engineDoes hb hdoes

theorem State.statusInv_resetRegisters (s : State) : s.resetRegisters.StatusInv := by
  simp [State.StatusInv, State.busy, Status.reset]

theorem State.MemInv.resetRegisters_inv (h : s.MemInv) : s.resetRegisters.Inv :=
  ⟨h, State.statusInv_resetRegisters s, rfl, rfl⟩

theorem State.Inv.writeCtrl (h : s.Inv) (v : Word) : (s.writeCtrl v).Inv := by
  unfold State.writeCtrl
  split_ifs
  · exact (h.1.scrambleAll s.runningWrites).resetRegisters_inv
  · exact ⟨h.1, by simp [State.StatusInv, State.clearStatus, Status.reset], h.2.2⟩
  · exact h

/-- No command runs while idle, so nothing can race with it. -/
theorem State.noRanges_idle (h : s.phase = .idle) : s.runningReads ++ s.runningWrites = [] := by
  simp [State.runningReads, State.runningWrites, h]

theorem State.Inv.hostDoes {t : State} (h : s.Inv) (ht : HostDoes s t) : t.Inv := by
  obtain ⟨hmem, hstatus, hphase⟩ := id h
  cases ht with
  | ignores => exact h
  | drops => exact h
  | accepts w hidle => exact ⟨hmem, by simp [State.StatusInv], rfl, rfl⟩
  | controls v => exact h.writeCtrl v
  | stores g hidle hfr hem =>
    simp only [State.PhaseInv, hidle] at hphase
    exact ⟨hmem, hstatus, by simpa only [State.PhaseInv, hidle] using hphase⟩
  | reads v k => exact h
  | pokes a v ha =>
    refine ⟨hmem.memWrite (.inr (by simpa using ha)), hstatus, ?_⟩
    cases hp : s.phase with
    | busy l => simpa [State.PhaseInv, hp] using hphase
    | idle =>
      simp only [State.PhaseInv, hp] at hphase
      simpa [State.PhaseInv, hp, State.noRanges_idle hp, inRanges] using hphase
  | powers => exact ⟨⟨.nil, nofun, hmem.2.2⟩, State.statusInv_resetRegisters s, rfl, rfl⟩

end invariant

/-- Settles O52: taking the event off changes nothing the invariant speaks of, and every move of the host and of the
engine keeps it. -/
theorem invariantIsKept : Obligations.InvariantIsKept := by
  intro s t hinv hstep
  have hdrop : s.dropEvent.Inv := hinv
  rcases step_cases hstep with ⟨op, rest, -, hdoes⟩ | ⟨-, b, hmove⟩
  · exact hdrop.hostDoes hdoes
  · exact hdrop.engineMove hmove

end Sys2Proof.Machine
end

section
/-!
PROOFS. What a command can change at all (20_memory.md R64, 40_command_issue.md R118), and that the parser's and the
emitter's positions stay in their streams (10_state.md R38, R42).
-/

namespace Sys2Proof.Machine

/-! ### The registers of a command's own unit -/

/-- FR_START, FR_NEXT and FR_FINISH. -/
abbrev Instr.Framer (i : Instr) : Prop := i = .frStart ∨ i = .frNext ∨ i = .frFinish

/-- The five emit commands. -/
abbrev Instr.Emitter (i : Instr) : Prop :=
  i = .emStart ∨ i = .emChunk ∨ i = .emIhdr ∨ i = .emIdat ∨ i = .emIend

/-- The operand registers `g'` differ from `g` only where command `i` may change them (R30, R36-R43, R141). -/
structure RegsFrame (i : Instr) (g g' : OperandRegs) : Prop where
  args : g'.arg0 = g.arg0 ∧ g'.arg1 = g.arg1 ∧ g'.arg2 = g.arg2 ∧ g'.arg3 = g.arg3 ∧ g'.idatMax = g.idatMax
  crc : (∀ ci cf, i ≠ .crcUpdate ci cf) → g'.crc = g.crc
  hdr : i ≠ .frNext → i ≠ .emChunk → i ≠ .emIhdr → g'.hdr = g.hdr
  framer : ¬Instr.Framer i → g.SameFramer g'
  emitter : ¬Instr.Emitter i → g.SameEmitter g'

section frame
variable {i : Instr} {g : OperandRegs}

theorem RegsFrame.refl : RegsFrame i g g :=
  ⟨⟨rfl, rfl, rfl, rfl, rfl⟩, fun _ => rfl, fun _ _ _ => rfl,
    fun _ => ⟨rfl, rfl, rfl, rfl⟩, fun _ => ⟨rfl, rfl, rfl, rfl⟩⟩

theorem RegsFrame.crcUpdate (ci cf : Bool) (c : Word) : RegsFrame (.crcUpdate ci cf) g { g with crc := c } :=
  { RegsFrame.refl (g := g) with crc := fun h => absurd rfl (h ci cf) }

/-- A parser command may change the FR_* registers. -/
theorem RegsFrame.of_framer (hi : Instr.Framer i) (fr : FrState) (base cursor limit : Word) :
    RegsFrame i g { g with fr := fr, frBase := base, frCursor := cursor, frLimit := limit } :=
  { RegsFrame.refl (g := g) with framer := fun h => absurd hi h }

theorem RegsFrame.frNext (fr : FrState) (cursor : Word) (h : Header) :
    RegsFrame .frNext g { g with fr := fr, frCursor := cursor, hdr := h } :=
  { RegsFrame.refl (g := g) with
    hdr := fun h => absurd rfl h
    framer := fun h => absurd (.inr (.inl rfl)) h }

/-- An emit command may change the EM_* registers. -/
theorem RegsFrame.of_emitter (hi : Instr.Emitter i) (em : EmState) (base cursor limit : Word) :
    RegsFrame i g { g with em := em, emBase := base, emCursor := cursor, emLimit := limit } :=
  { RegsFrame.refl (g := g) with emitter := fun h => absurd hi h }

/-- EM_CHUNK and EM_IHDR may load the header, too (R141). -/
theorem RegsFrame.of_headerEmitter (hi : i = .emChunk ∨ i = .emIhdr) (em : EmState) (cursor : Word) (h : Header) :
    RegsFrame i g { g with em := em, emCursor := cursor, hdr := h } :=
  { RegsFrame.refl (g := g) with
    hdr := fun _ hc hh => absurd hi (by simp [hc, hh])
    emitter := fun hn => absurd hi (by rintro (rfl | rfl) <;> simp [Instr.Emitter] at hn) }

end frame

section commands
variable {s t : State} {i : Instr}

/-- A command changes registers in its frame when its error entry and its effect do. -/
theorem regsFrame_of_conclude {cs : List Check} {f : Raise → State} {u : State} (h : conclude cs f (.next u) = .next t)
    (hf : ∀ r, RegsFrame i s.regs (f r).regs) (hu : RegsFrame i s.regs u.regs) : RegsFrame i s.regs t.regs := by
  rcases conclude_next h with ⟨r, -, rfl⟩ | ⟨-, h⟩
  · exact hf r
  · cases h
    exact hu

/-- The error entry of a parser command changes FR_STATE alone (R146). -/
theorem regsFrame_failFramer (hi : Instr.Framer i) (r : Raise) : RegsFrame i s.regs (s.failFramer r).regs :=
  RegsFrame.of_framer hi _ _ _ _

theorem exec_regsFrame (hi : ∀ ty, i ≠ filterInstr ty) (h : exec i s = .next t) : RegsFrame i s.regs t.regs := by
  cases i with
  | nop =>
    cases h
    exact .refl
  | unfilterRow | filterRow | unfilterImage | filterImage | unpackRow | packRow =>
    exact regsFrame_of_conclude h (fun _ => .refl) .refl
  | geom | imglen | a7Dims | a7Map | a7Inv => exact regsFrame_of_conclude h (fun _ => .refl) .refl
  | crcUpdate ci cf => exact regsFrame_of_conclude h (fun _ => .refl) (.crcUpdate ci cf _)
  | frStart =>
    exact regsFrame_of_conclude h (regsFrame_failFramer (.inl rfl)) (.of_framer (.inl rfl) _ _ _ _)
  | frNext =>
    exact regsFrame_of_conclude h (regsFrame_failFramer (.inr (.inl rfl))) (.frNext _ _ _)
  | frFinish =>
    exact regsFrame_of_conclude h (regsFrame_failFramer (.inr (.inr rfl))) (.of_framer (.inr (.inr rfl)) _ _ _ _)
  | emStart => exact regsFrame_of_conclude h (fun _ => .refl) (.of_emitter (.inl rfl) _ _ _ _)
  | emChunk => exact regsFrame_of_conclude h (fun _ => .refl) (.of_headerEmitter (.inl rfl) _ _ _)
  | emIhdr => exact regsFrame_of_conclude h (fun _ => .refl) (.of_headerEmitter (.inr rfl) _ _ _)
  | emIdat => exact regsFrame_of_conclude h (fun _ => .refl) (.of_emitter (.inr (.inr (.inr (.inl rfl)))) _ _ _ _)
  | emIend => exact regsFrame_of_conclude h (fun _ => .refl) (.of_emitter (.inr (.inr (.inr (.inr rfl)))) _ _ _ _)
  | filterTypeNone => exact absurd rfl (hi .none)
  | filterTypeSub => exact absurd rfl (hi .sub)
  | filterTypeUp => exact absurd rfl (hi .up)
  | filterTypeAverage => exact absurd rfl (hi .average)
  | filterTypePaeth => exact absurd rfl (hi .paeth)

/-! ### Everything else -/

/-- What no command changes: CMD, CTRL, LOST, MEM_SIZE and the model's own fields. -/
structure SameHostView (s t : State) : Prop where
  cmd : t.cmd = s.cmd
  irqEn : t.irqEn = s.irqEn
  lost : t.status.lost = s.status.lost
  memSize : t.memSize = s.memSize
  epoch : t.epoch = s.epoch
  agenda : t.agenda = s.agenda
  hostData : t.hostData = s.hostData
  free : t.free = s.free

theorem sameHostView_failAs (r : Raise) : SameHostView s (s.failAs i r) := by
  unfold State.failAs
  split <;> exact ⟨rfl, rfl, rfl, rfl, rfl, rfl, rfl, rfl⟩

theorem exec_sameHostView (hi : ∀ ty, i ≠ filterInstr ty) (h : exec i s = .next t) : SameHostView s t := by
  rcases exec_does hi h with ⟨r, rfl⟩ | ⟨a, bs, g, r0, r1, r2, r3, rfl, -⟩
  · exact sameHostView_failAs r
  · exact ⟨rfl, rfl, rfl, rfl, rfl, rfl, rfl, rfl⟩

theorem readByte_failAs (r : Raise) (a : Nat) : (s.failAs i r).readByte a = s.readByte a := by
  unfold State.failAs
  split <;> rfl

/-- Where a command may write nothing, it writes nothing. -/
theorem WriteAllowed.outside {o : OperandRegs} {size a n x : Nat} (h : WriteAllowed i o size a n)
    (hx : inRanges (writeSet i o) x = false) : x < a ∨ a + n ≤ x := by
  rcases h with rfl | ⟨⟨r, hr, h1, h2⟩, -⟩
  · omega
  · have hx := List.any_eq_false.mp hx r hr
    simp only [Range.contains, Bool.and_eq_true, decide_eq_true_eq] at hx
    omega

theorem exec_readByte_outside (hi : ∀ ty, i ≠ filterInstr ty) (h : exec i s = .next t) {x : Nat}
    (hx : inRanges (writeSet i s.operands) x = false) : t.readByte x = s.readByte x := by
  rcases exec_does hi h with ⟨r, rfl⟩ | ⟨a, bs, g, r0, r1, r2, r3, rfl, hw⟩
  · exact readByte_failAs r x
  · exact sameOutside_completed x (hw.outside hx)

end commands

/-- Settles O50: the written bytes lie in the write set, and the registers differ in the command's frame alone. -/
theorem commandFrame : Obligations.CommandFrame := by
  intro s t l i hbusy hi hexec framer emitter
  obtain ⟨⟨h0, h1, h2, h3, hmax⟩, hcrc, hhdr, hfr, hem⟩ := exec_regsFrame hi hexec
  obtain ⟨hcmd, hirq, hlost, hsize, hepoch, hagenda, hdata, hfree⟩ := exec_sameHostView hi hexec
  exact ⟨fun a ha => exec_readByte_outside hi hexec (State.operands_busy hbusy ▸ ha), h0, h1, h2, h3, hmax, hcmd, hirq,
    hlost, hcrc, hhdr, hfr, hem, hsize, hepoch, hagenda, hdata, hfree⟩

/-! ### The stream invariant -/

/-- R38: the parser's positions, once FR_START has seen the signature. -/
abbrev OperandRegs.FramerInv (g : OperandRegs) (size : Nat) : Prop :=
  g.fr.sigOk = true →
    g.frBase.toNat + 8 ≤ g.frCursor.toNat ∧ g.frCursor.toNat ≤ g.frLimit.toNat ∧ g.frLimit.toNat ≤ size

/-- R42: the emitter's positions, once EM_START has opened the stream. -/
abbrev OperandRegs.EmitterInv (g : OperandRegs) (size : Nat) : Prop :=
  g.em.started = true →
    g.emBase.toNat + 8 ≤ g.emCursor.toNat ∧ g.emCursor.toNat ≤ g.emLimit.toNat ∧ g.emLimit.toNat ≤ size

section streams
variable {s t : State} {g g' : OperandRegs} {size : Nat}

theorem OperandRegs.FramerInv.congr (h : g.FramerInv size) (hs : g.SameFramer g') : g'.FramerInv size := by
  obtain ⟨hfr, hbase, hcursor, hlimit⟩ := hs
  simpa only [OperandRegs.FramerInv, hfr, hbase, hcursor, hlimit] using h

theorem OperandRegs.EmitterInv.congr (h : g.EmitterInv size) (hs : g.SameEmitter g') : g'.EmitterInv size := by
  obtain ⟨hem, hbase, hcursor, hlimit⟩ := hs
  simpa only [OperandRegs.EmitterInv, hem, hbase, hcursor, hlimit] using h

theorem toNat_u32 {n : Nat} (h : n < 2 ^ 32) : (u32 n).toNat = n := by
  simpa [u32] using h

/-- A parser's or emitter's stream right after its start: the cursor at the ninth byte, the limit in the memory. -/
theorem startPositions {base len : Word} (h8 : 8 ≤ len.toNat) (hfits : base.toNat + len.toNat ≤ u32Max)
    (hin : (Range.mk base.toNat len.toNat).inBounds size = true) :
    base.toNat + 8 ≤ (base + 8).toNat ∧ (base + 8).toNat ≤ (base + len).toNat ∧ (base + len).toNat ≤ size := by
  have hin := Range.inBounds_iff.mp hin
  simp only [u32Max] at hfits hin
  have h1 : (base + 8).toNat = base.toNat + 8 := by
    rw [BitVec.toNat_add_of_lt] <;> simp; omega
  have h2 : (base + len).toNat = base.toNat + len.toNat := BitVec.toNat_add_of_lt (by omega)
  omega

/-- A cursor that moves on by what is left before the limit, or less. -/
theorem cursor_advance {cursor limit : Word} {n : Nat} (hle : cursor.toNat ≤ limit.toNat)
    (hroom : n ≤ limit.toNat - cursor.toNat) : (u32 (cursor.toNat + n)).toNat = cursor.toNat + n :=
  toNat_u32 (by have := limit.isLt; omega)

/-! ### The parser's commands -/

theorem framerInv_frStart (h : s.regs.FramerInv s.memSize) (ht : exec .frStart s = .next t) :
    t.regs.FramerInv s.memSize := by
  rcases conclude_next ht with ⟨r, -, rfl⟩ | ⟨hc, ht⟩
  · exact h
  · cases ht
    obtain ⟨hpre, hsig⟩ := allHold_append.mp hc
    obtain ⟨hfits, hin⟩ := allHold_append.mp hpre
    have h8 := (allHold_append.mp hsig).2 _ (List.mem_singleton.mpr rfl)
    have hfits := hfits _ (List.mem_singleton.mpr rfl)
    have hin := allHold_boundsChecks.mp hin _ (List.mem_singleton.mpr rfl)
    exact fun _ => startPositions (of_decide_eq_true h8) (of_decide_eq_true hfits) hin

/-- The room check of FR_NEXT: the chunk ends at FR_LIMIT or before. -/
theorem frNext_room {o : OperandRegs} (hc : allHold (frNextChecks o s)) :
    12 + s.chunkLength o.frCursor.toNat ≤ o.frLimit.toNat - o.frCursor.toNat := by
  simp only [frNextChecks, allHold_append, allHold_cons, decide_eq_true_eq] at hc
  obtain ⟨⟨-, -, hroom, -⟩, -⟩ := hc
  exact hroom

theorem framerInv_frNext (h : s.regs.FramerInv s.memSize) (ho : s.operands = s.regs) (ht : exec .frNext s = .next t) :
    t.regs.FramerInv s.memSize := by
  rcases conclude_next ht with ⟨r, -, rfl⟩ | ⟨hc, ht⟩
  · exact h
  · cases ht
    have hroom := frNext_room (allHold_append.mp hc).2
    rw [ho] at hroom
    simp only [OperandRegs.FramerInv, frNextEffect, State.succeed_regs, State.withResults_regs, ho]
    intro hsig
    obtain ⟨hbase, hle, hlimit⟩ := h hsig
    have := cursor_advance hle hroom
    rw [Nat.add_assoc, this]
    omega

theorem framerInv_frFinish (h : s.regs.FramerInv s.memSize) (ho : s.operands = s.regs)
    (ht : exec .frFinish s = .next t) : t.regs.FramerInv s.memSize := by
  rcases conclude_next ht with ⟨r, -, rfl⟩ | ⟨-, ht⟩
  · exact h
  · cases ht
    simpa only [OperandRegs.FramerInv, State.succeed_regs, State.withResults_regs, ho] using h

/-! ### The emitter's commands -/

theorem emitterInv_emStart (h : s.regs.EmitterInv s.memSize) (ht : exec .emStart s = .next t) :
    t.regs.EmitterInv s.memSize := by
  rcases conclude_next ht with ⟨r, -, rfl⟩ | ⟨hc, ht⟩
  · exact h
  · cases ht
    obtain ⟨hargs, hin⟩ := allHold_append.mp hc
    simp only [allHold_cons, decide_eq_true_eq] at hargs
    obtain ⟨hfits, h8, -⟩ := hargs
    have hin := allHold_boundsChecks.mp hin _ (List.mem_singleton.mpr rfl)
    exact fun _ => startPositions h8 hfits hin

/-- An emit command of `n` bytes that has checked its room leaves the emitter in its stream. -/
theorem emitterInv_emit {cs : List Check} {n : Nat} {chunk : Word} {order : ChunkOrder}
    (h : s.regs.EmitterInv s.memSize) (ho : s.operands = s.regs) (hc : allHold cs)
    (hcap : emCapacity s.operands n chunk ∈ cs) (hdr : Header) :
    OperandRegs.EmitterInv { s.regs with
      em := { s.operands.em with order := order }
      emCursor := u32 (s.operands.emCursor.toNat + n)
      hdr := hdr } s.memSize := by
  have hroom : n ≤ s.regs.emLimit.toNat - s.regs.emCursor.toNat := ho ▸ of_decide_eq_true (hc _ hcap)
  simp only [OperandRegs.EmitterInv, ho]
  intro hstarted
  obtain ⟨hbase, hle, hlimit⟩ := h hstarted
  rw [cursor_advance hle hroom]
  omega

theorem emitterInv_emChunk (h : s.regs.EmitterInv s.memSize) (ho : s.operands = s.regs)
    (ht : exec .emChunk s = .next t) : t.regs.EmitterInv s.memSize := by
  rcases conclude_next ht with ⟨r, -, rfl⟩ | ⟨hc, ht⟩
  · exact h
  · cases ht
    rw [emitChunk_completed, chunkBytes_length rfl, State.memRead_length]
    exact emitterInv_emit h ho hc (chunk := s.operands.arg0) (by simp [emChunkChecks]) _

theorem emitterInv_emIhdr (h : s.regs.EmitterInv s.memSize) (ho : s.operands = s.regs)
    (ht : exec .emIhdr s = .next t) : t.regs.EmitterInv s.memSize := by
  rcases conclude_next ht with ⟨r, -, rfl⟩ | ⟨hc, ht⟩
  · exact h
  · cases ht
    rw [emitChunk_completed, chunkBytes_length rfl, headerPayload_length]
    exact emitterInv_emit h ho hc (chunk := packType tIHDR) (by simp [emIhdrChecks]) _

theorem emitterInv_emIdat (h : s.regs.EmitterInv s.memSize) (ho : s.operands = s.regs)
    (ht : exec .emIdat s = .next t) : t.regs.EmitterInv s.memSize := by
  rcases conclude_next ht with ⟨r, -, rfl⟩ | ⟨hc, ht⟩
  · exact h
  · cases ht
    have hm : s.operands.idatMax ≠ 0 := by
      simpa using hc ⟨s.operands.idatMax != 0, argRaise .argRange (packType tIDAT)⟩ (by simp [emIdatChecks])
    rw [emit_completed, idatRun_length (by simpa [BitVec.toNat_eq] using hm), State.memRead_length]
    exact emitterInv_emit h ho hc (chunk := packType tIDAT) (by simp [emIdatChecks]) s.regs.hdr

theorem emitterInv_emIend (h : s.regs.EmitterInv s.memSize) (ho : s.operands = s.regs)
    (ht : exec .emIend s = .next t) : t.regs.EmitterInv s.memSize := by
  rcases conclude_next ht with ⟨r, -, rfl⟩ | ⟨hc, ht⟩
  · exact h
  · cases ht
    exact emitterInv_emit h ho hc (n := 12) (chunk := packType tIEND) (by simp [emIendChecks]) s.regs.hdr

/-! ### Every step -/

/-- A command that leaves FR_* alone keeps R38, and the three that do not keep it too. -/
theorem exec_framerInv {i : Instr} (h : s.regs.FramerInv s.memSize) (ho : s.operands = s.regs)
    (hi : ∀ ty, i ≠ filterInstr ty) (ht : exec i s = .next t) : t.regs.FramerInv s.memSize := by
  by_cases hf : Instr.Framer i
  · rcases hf with rfl | rfl | rfl
    · exact framerInv_frStart h ht
    · exact framerInv_frNext h ho ht
    · exact framerInv_frFinish h ho ht
  · exact h.congr ((exec_regsFrame hi ht).framer hf)

/-- A command that leaves EM_* alone keeps R42, and the five that do not keep it too. -/
theorem exec_emitterInv {i : Instr} (h : s.regs.EmitterInv s.memSize) (ho : s.operands = s.regs)
    (hi : ∀ ty, i ≠ filterInstr ty) (ht : exec i s = .next t) : t.regs.EmitterInv s.memSize := by
  by_cases he : Instr.Emitter i
  · rcases he with rfl | rfl | rfl | rfl | rfl
    · exact emitterInv_emStart h ht
    · exact emitterInv_emChunk h ho ht
    · exact emitterInv_emIhdr h ho ht
    · exact emitterInv_emIdat h ho ht
    · exact emitterInv_emIend h ho ht
  · exact h.congr ((exec_regsFrame hi ht).emitter he)

theorem State.StreamInv.exec {i : Instr} (h : s.StreamInv) (ho : s.operands = s.regs) (hi : ∀ ty, i ≠ filterInstr ty)
    (ht : exec i s = .next t) : t.StreamInv := by
  have hsize := (exec_sameHostView hi ht).memSize
  have hfr : t.regs.FramerInv t.memSize := hsize ▸ exec_framerInv h.1 ho hi ht
  have hem : t.regs.EmitterInv t.memSize := hsize ▸ exec_emitterInv h.2 ho hi ht
  exact ⟨hfr, hem⟩

theorem State.StreamInv.engineDoes {b : Bool} (h : s.StreamInv) (ho : s.operands = s.regs) (ht : EngineDoes s b t) :
    t.StreamInv := by
  cases ht with
  | fails r => exact h
  | runs i t hi hrow ht => exact h.exec ho hi ht
  | begins w hrow hrows => exact h
  | walks w v a bs hrow hleft hfits => exact h
  | ends w a bs r0 r1 hrow hfits => exact h

/-- After a reset no stream is open. -/
theorem State.streamInv_resetRegisters (s : State) : s.resetRegisters.StreamInv := by
  simp [State.StreamInv, OperandRegs.reset]

theorem State.StreamInv.writeCtrl (h : s.StreamInv) (v : Word) : (s.writeCtrl v).StreamInv := by
  unfold State.writeCtrl
  split_ifs
  · exact State.streamInv_resetRegisters _
  · exact h
  · exact h

theorem State.StreamInv.hostDoes (h : s.StreamInv) (ht : HostDoes s t) : t.StreamInv := by
  cases ht with
  | ignores | drops | accepts | reads | pokes => exact h
  | controls v => exact h.writeCtrl v
  | stores g hidle hfr hem =>
    have hfr : g.FramerInv s.memSize := OperandRegs.FramerInv.congr h.1 hfr
    have hem : g.EmitterInv s.memSize := OperandRegs.EmitterInv.congr h.2 hem
    exact ⟨hfr, hem⟩
  | powers => exact State.streamInv_resetRegisters s

/-- While a command runs, the latched operands are the live registers (R46). -/
theorem State.Inv.operands (h : s.Inv) : s.operands = s.regs := by
  obtain ⟨-, -, hphase⟩ := h
  unfold State.operands
  split
  · rename_i l hl
    simp only [State.PhaseInv, hl] at hphase
    exact hphase.1
  · rfl

end streams

/-- Settles O53: a host operation writes no FR_* or EM_* register but to reset it, and a command that moves a position
has checked its room. -/
theorem streamInvariantIsKept : Obligations.StreamInvariantIsKept := by
  intro s t hinv hstream hwho hstep
  have hdrop : s.dropEvent.StreamInv := hstream
  rcases step_cases hstep with ⟨op, rest, -, hdoes⟩ | ⟨hengine, b, hmove⟩
  · exact hdrop.hostDoes hdoes
  · have hraced : s.raced = false := hwho.resolve_right fun ⟨op, rest, ha⟩ => hengine op rest ha
    rcases engineMove_cases hmove with ⟨-, rfl⟩ | ⟨l, hb, ⟨hr, -⟩ | ⟨-, hdoes⟩⟩
    · exact hdrop
    · exact absurd (hr.symm.trans hraced) nofun
    · exact hdrop.engineDoes (State.Inv.operands (s := s.dropEvent) hinv) hdoes

end Sys2Proof.Machine
end

section
/-!
PROOFS. An accepted command completes (40_command_issue.md R115): every move of the engine completes it or brings its
walk nearer to the end.
-/

namespace Sys2Proof.Machine

/-- A completed command (R114): BUSY = 0, no row context and exactly one of DONE and ERR. -/
abbrev State.Complete (t : State) : Prop := t.busy = false ∧ t.row = none ∧ t.status.done ≠ t.status.err

/-- From `s` an engine move has gone to `t`, which stands at a scanline with fewer moves left than in `s`. -/
abbrev WalkGoesOn (s : State) (byRows : Bool) (t : State) : Prop :=
  t.phase = s.phase ∧ ∃ w, t.row = some w ∧ (s.row = none → byRows = true)
    ∧ ∀ v, s.row = some v → w.movesLeft < v.movesLeft

section completes
variable {s t : State} {l : Latched} {b : Bool}

theorem State.StatusInv.failAs_complete (h : s.StatusInv) (hb : s.phase = .busy l) (i : Instr) (r : Raise) :
    (s.failAs i r).Complete := by
  obtain ⟨hdone, -, -⟩ := h.of_busy hb
  unfold State.failAs
  split_ifs <;> simp [State.Complete, State.busy, hdone]

theorem State.StatusInv.completed_complete (h : s.StatusInv) (hb : s.phase = .busy l) (m : Memory) (g : OperandRegs)
    (r0 r1 r2 r3 : Word) : (s.completed m g r0 r1 r2 r3).Complete := by
  obtain ⟨-, herr, -⟩ := h.of_busy hb
  simp [State.Complete, State.busy, State.completed, herr]

theorem State.racedCompletion_complete (s : State) : s.racedCompletion.Complete := by
  simp [State.Complete, State.busy, State.racedCompletion]

theorem State.StatusInv.exec_complete {i : Instr} (h : s.StatusInv) (hb : s.phase = .busy l)
    (hi : ∀ ty, i ≠ filterInstr ty) (ht : exec i s = .next t) : t.Complete := by
  rcases exec_does hi ht with ⟨r, rfl⟩ | ⟨a, bs, g, r0, r1, r2, r3, rfl, -⟩
  · exact h.failAs_complete hb i r
  · exact h.completed_complete hb _ g r0 r1 r2 r3

theorem State.StatusInv.engineDoes_progress (h : s.StatusInv) (hb : s.phase = .busy l) (ht : EngineDoes s b t) :
    t.Complete ∨ WalkGoesOn s b t := by
  cases ht with
  | fails r => exact .inl (h.failAs_complete hb .nop r)
  | runs i t hi hrow ht => exact .inl (h.exec_complete hb hi ht)
  | begins w hrow hrows => exact .inr ⟨rfl, w, rfl, fun _ => hrows, fun v hv => absurd (hrow.symm.trans hv) nofun⟩
  | walks w v a bs hrow hleft hfits =>
    refine .inr ⟨rfl, v, rfl, fun hn => absurd (hrow.symm.trans hn) nofun, fun u hu => ?_⟩
    rw [hrow] at hu
    exact Option.some.inj hu ▸ hleft
  | ends w a bs r0 r1 hrow hfits => exact .inl (h.completed_complete hb _ s.regs r0 r1 0 0)

/-- Every move of the engine on a running command completes it or goes on with its walk. -/
theorem State.Inv.engineMove_progress (h : s.Inv) (hb : s.phase = .busy l) (b : Bool) :
    ∃ t, s.engineMove b = .next t ∧ (t.Complete ∨ WalkGoesOn s b t) := by
  cases hr : s.raced with
  | true => exact ⟨_, engineMove_raced hb hr, .inl s.racedCompletion_complete⟩
  | false =>
    obtain ⟨t, ht, hdoes⟩ := engineMove_does (b := b) hb hr
    exact ⟨t, ht, h.2.1.engineDoes_progress hb hdoes⟩

theorem State.rowMoves_succ {n : Nat} (h : s.engineMove true = .next t) : s.rowMoves (n + 1) = t.rowMoves n := by
  simp only [State.rowMoves, h]

/-- A walk with at most `n` moves left completes by scanlines. -/
theorem walk_completes (n : Nat) (h : s.Inv) (hb : s.phase = .busy l) {w : RowWalk} (hrow : s.row = some w)
    (hn : w.movesLeft ≤ n) : ∃ k t, s.rowMoves k = .next t ∧ t.Complete := by
  induction n generalizing s w with
  | zero => simp only [RowWalk.movesLeft] at hn; omega
  | succ n ih =>
    obtain ⟨t, ht, hdone | ⟨hphase, v, hv, -, hless⟩⟩ := h.engineMove_progress hb true
    · exact ⟨1, t, State.rowMoves_succ ht, hdone⟩
    · obtain ⟨k, u, hu, hdone⟩ := ih (h.engineMove ht) (hphase.trans hb) hv (by have := hless w hrow; omega)
      exact ⟨k + 1, u, (State.rowMoves_succ ht).trans hu, hdone⟩

/-- A running command completes after some number of moves by scanlines. -/
theorem State.Inv.completes (h : s.Inv) (hb : s.phase = .busy l) : ∃ n t, s.rowMoves n = .next t ∧ t.Complete := by
  obtain ⟨t, ht, hdone | ⟨hphase, v, hv, -⟩⟩ := h.engineMove_progress hb true
  · exact ⟨1, t, State.rowMoves_succ ht, hdone⟩
  · obtain ⟨k, u, hu, hdone⟩ := walk_completes v.movesLeft (h.engineMove ht) (hphase.trans hb) hv le_rfl
    exact ⟨k + 1, u, (State.rowMoves_succ ht).trans hu, hdone⟩

theorem State.phase_of_busy (h : s.busy = true) : ∃ l, s.phase = .busy l := by
  cases hp : s.phase with
  | idle => simp [State.busy, hp] at h
  | busy l => exact ⟨l, rfl⟩

end completes

/-- Settles O51: one move makes progress, and the moves a walk has left bound the walk. -/
theorem commandsAlwaysComplete : Obligations.CommandsAlwaysComplete := by
  intro s hinv hbusy complete
  obtain ⟨l, hb⟩ := State.phase_of_busy hbusy
  exact ⟨hinv.engineMove_progress hb, hinv.completes hb⟩

end Sys2Proof.Machine
end

section
/-!
PROOFS. The register space as the host sees it (10_state.md R20-R49): the register at each offset, what a write stores
and drops, what a read returns, and where the fields stand.
-/

namespace Sys2Proof.Machine

/-! ### The map -/

/-- The offset of a register as a number (R20). -/
def Reg.address (r : Reg) : Nat := 4 * Reg.map.idxOf r

theorem Reg.address_injective {r r' : Reg} (h : r.address = r'.address) : r = r' := by
  have hmem (r : Reg) : r ∈ Reg.map := by cases r <;> decide
  exact (List.idxOf_inj (hmem r)).mp (by simpa [Reg.address] using h)

/-- An aligned offset is a register's, or reserved. -/
theorem regAt_cases {offset : BitVec 8} (h : offset.toNat % 4 = 0) :
    (∃ r, regAt offset = some r ∧ offset.toNat = r.address) ∨ regAt offset = none ∧ 0x70 ≤ offset.toNat := by
  cases hr : regAt offset with
  | some r =>
    obtain ⟨hlt, hget⟩ := List.getElem?_eq_some_iff.mp hr
    have hidx : Reg.map.idxOf r = offset.toNat / 4 := hget ▸ List.Nodup.idxOf_getElem (by decide) _ hlt
    exact .inl ⟨r, rfl, by rw [Reg.address, hidx]; omega⟩
  | none =>
    have hlen : Reg.map.length ≤ offset.toNat / 4 := List.getElem?_eq_none_iff.mp hr
    have h28 : Reg.map.length = 28 := rfl
    exact .inr ⟨rfl, by omega⟩

theorem Reg.lockedWhileBusy_iff (r : Reg) : r.lockedWhileBusy = true ↔ r.address ∈ lockedOffsets := by
  cases r <;> decide

theorem Reg.unspecifiedWhileBusy_iff (r : Reg) : r.unspecifiedWhileBusy = true ↔ r.address ∈ unspecifiedOffsets := by
  cases r <;> decide

theorem Reg.address_eq_ctrl {r : Reg} : r.address = 0x0C ↔ r = .ctrl :=
  ⟨fun h => Reg.address_injective (r' := .ctrl) h, fun h => h ▸ rfl⟩

theorem Reg.address_eq_cmd {r : Reg} : r.address = 0x04 ↔ r = .cmd :=
  ⟨fun h => Reg.address_injective (r' := .cmd) h, fun h => h ▸ rfl⟩

/-- No listed offset is a reserved one. -/
theorem reserved_not_mem {a : Nat} (h : 0x70 ≤ a) : a ∉ lockedOffsets ∧ a ∉ unspecifiedOffsets := by
  simp only [lockedOffsets, unspecifiedOffsets, List.mem_cons, List.not_mem_nil, or_false]
  omega

section map
variable (s : State)

/-- The register map holds the registers at their addresses. -/
theorem State.registerAt_address (r : Reg) : s.registerAt r.address = s.readReg r := by
  cases r <;> rfl

/-- An offset that is no register's reads 0. -/
theorem State.registerAt_of_no_reg {a : Nat} (h : ∀ r : Reg, r.address ≠ a) : s.registerAt a = 0 := by
  unfold State.registerAt
  split
  exacts [absurd rfl (h .id), absurd rfl (h .cmd), absurd rfl (h .status), absurd rfl (h .ctrl), absurd rfl (h .arg0),
    absurd rfl (h .arg1), absurd rfl (h .arg2), absurd rfl (h .arg3), absurd rfl (h .res0), absurd rfl (h .res1),
    absurd rfl (h .res2), absurd rfl (h .res3), absurd rfl (h .errOffset), absurd rfl (h .errChunk),
    absurd rfl (h .crc), absurd rfl (h .idatMax), absurd rfl (h .hdrWidth), absurd rfl (h .hdrHeight),
    absurd rfl (h .hdrFmt), absurd rfl (h .hdrIl), absurd rfl (h .frState), absurd rfl (h .frBase),
    absurd rfl (h .frCursor),
    absurd rfl (h .frLimit), absurd rfl (h .emState), absurd rfl (h .emBase), absurd rfl (h .emCursor),
    absurd rfl (h .emLimit), rfl]

theorem Reg.address_lt (r : Reg) : r.address < 0x70 := by
  cases r <;> decide

theorem State.registerAt_reserved {a : Nat} (h : 0x70 ≤ a) : s.registerAt a = 0 :=
  s.registerAt_of_no_reg fun r => by have := r.address_lt; omega

end map

/-! ### The host's moves -/

section moves
variable {s : State} {offset : BitVec 8} {v : Word} {r : Reg}

theorem step_host {op : HostOp} {rest : List Event} (h : s.agenda = .host op :: rest) :
    step s = State.hostMove { s with agenda := rest } op := by
  simp [step, State.dropEvent, h]

theorem hostRegWrite_reg (h4 : offset.toNat % 4 = 0) (hr : regAt offset = some r) :
    s.hostRegWrite offset .word v = .next (if s.busy && r.lockedWhileBusy then s.setLost else s.writeReg r v) := by
  simp [State.hostRegWrite, accessAligned, h4, hr]

theorem hostRegWrite_reserved (h4 : offset.toNat % 4 = 0) (hr : regAt offset = none) :
    s.hostRegWrite offset .word v = .next s := by
  simp [State.hostRegWrite, accessAligned, h4, hr]

theorem hostRegRead_reg (h4 : offset.toNat % 4 = 0) (hr : regAt offset = some r) :
    s.hostRegRead offset .word =
      .next (if s.busy && r.unspecifiedWhileBusy then s.answerFree else s.answerHost (s.readReg r)) := by
  simp [State.hostRegRead, accessAligned, h4, hr]

theorem hostRegRead_reserved (h4 : offset.toNat % 4 = 0) (hr : regAt offset = none) :
    s.hostRegRead offset .word = .next (s.answerHost 0) := by
  simp [State.hostRegRead, accessAligned, h4, hr]

/-- A write to a read-only register changes nothing (R20). -/
theorem writeReg_of_unlocked (h : r.lockedWhileBusy = false) (hc : r ≠ .ctrl) : s.writeReg r v = s := by
  cases r with
  | ctrl => exact absurd rfl hc
  | cmd | arg0 | arg1 | arg2 | arg3 | crc | idatMax | hdrWidth | hdrHeight | hdrFmt | hdrIl => cases h
  | id | status | res0 | res1 | res2 | res3 | errOffset | errChunk => rfl
  | frState | frBase | frCursor | frLimit | emState | emBase | emCursor | emLimit => rfl

/-- A write to an operand register changes operand registers alone (R25). -/
theorem writeReg_regs (hm : r ≠ .cmd) (hc : r ≠ .ctrl) :
    s.writeReg r v = { s with regs := (s.writeReg r v).regs } := by
  cases r with
  | cmd => exact absurd rfl hm
  | ctrl => exact absurd rfl hc
  | _ => rfl

/-- What a register keeps of a written value: HDR_IL its low eight bits (R35), every other operand register all. -/
def Reg.stored (r : Reg) (v : Word) : Word := if r = .hdrIl then (v.setWidth 8).setWidth 32 else v

theorem Reg.stored_eq (r : Reg) (v : Word) : r.stored v = if r.address = 0x4C then v &&& 0xFF else v := by
  have hil : r.address = 0x4C ↔ r = .hdrIl := ⟨fun h => Reg.address_injective (r' := .hdrIl) h, fun h => h ▸ rfl⟩
  have hlow : (v.setWidth 8).setWidth 32 = v &&& 0xFF := by
    refine BitVec.eq_of_toNat_eq ?_
    calc (v.setWidth 8 |>.setWidth 32).toNat = v.toNat % 2 ^ 8 := by
          rw [BitVec.toNat_setWidth, BitVec.toNat_setWidth]
          omega
      _ = v.toNat &&& 0xFF := (Nat.and_two_pow_sub_one_eq_mod v.toNat 8).symm
      _ = (v &&& 0xFF).toNat := (BitVec.toNat_and v 0xFF).symm
  simp only [Reg.stored, hil, hlow]

/-- A write to an operand register is what it reads back, and leaves what every other register reads (R25, R30-R35). -/
theorem readReg_writeReg (h : r.lockedWhileBusy = true) (hm : r ≠ .cmd) (r' : Reg) :
    (s.writeReg r v).readReg r' = if r' = r then r.stored v else s.readReg r' := by
  cases r with
  | cmd => exact absurd rfl hm
  | arg0 | arg1 | arg2 | arg3 | crc | idatMax | hdrWidth | hdrHeight | hdrFmt | hdrIl => cases r' <;> rfl
  | id | status | ctrl | res0 | res1 | res2 | res3 | errOffset | errChunk => cases h
  | frState | frBase | frCursor | frLimit | emState | emBase | emCursor | emLimit => cases h

/-- Every offset but the written one reads as before. -/
theorem registerAt_writeReg_other {a : Nat} (h : r.lockedWhileBusy = true) (hm : r ≠ .cmd) (ha : a ≠ r.address) :
    (s.writeReg r v).registerAt a = s.registerAt a := by
  by_cases hr : ∃ r' : Reg, r'.address = a
  · obtain ⟨r', rfl⟩ := hr
    rw [State.registerAt_address, State.registerAt_address, readReg_writeReg h hm,
      if_neg fun he => ha (congrArg Reg.address he)]
  · have hr := not_exists.mp hr
    rw [State.registerAt_of_no_reg _ hr, State.registerAt_of_no_reg _ hr]

end moves

/-- Settles O6: a locked register drops the write with LOST, and of the others only CTRL takes it. -/
theorem busyWritesAreDropped : Obligations.BusyWritesAreDropped := by
  intro s l offset v rest hbusy h4 hagenda
  rw [step_host hagenda]
  have hb : State.busy { s with agenda := rest } = true := State.busy_of_phase hbusy
  obtain ⟨r, hr, haddr⟩ | ⟨hr, hres⟩ := regAt_cases h4
  · rw [State.hostMove, hostRegWrite_reg h4 hr, haddr, hb]
    cases hlock : r.lockedWhileBusy with
    | true => rw [if_pos (Reg.lockedWhileBusy_iff r |>.mp hlock)]; rfl
    | false =>
      rw [if_neg (mt (Reg.lockedWhileBusy_iff r).mpr (by simp [hlock]))]
      by_cases hc : r = .ctrl
      · subst hc
        rfl
      · rw [if_neg (mt Reg.address_eq_ctrl.mp hc)]
        exact congrArg _ (writeReg_of_unlocked hlock hc)
  · rw [State.hostMove, hostRegWrite_reserved h4 hr, if_neg (reserved_not_mem hres).1, if_neg (by omega)]

/-- Settles O7: a write to a register other than CMD and CTRL stores it or does nothing. -/
theorem idleWritesStore : Obligations.IdleWritesStore := by
  intro s offset v rest hidle h4 hagenda hcmd hctrl
  rw [step_host hagenda]
  have hb : State.busy { s with agenda := rest } = false := State.busy_eq_false.mpr hidle
  obtain ⟨r, hr, haddr⟩ | ⟨hr, hres⟩ := regAt_cases h4
  · rw [haddr] at hcmd hctrl ⊢
    have hm : r ≠ .cmd := mt Reg.address_eq_cmd.mpr hcmd
    have hc : r ≠ .ctrl := mt Reg.address_eq_ctrl.mpr hctrl
    refine ⟨State.writeReg { s with agenda := rest } r v, ?_, writeReg_regs hm hc, fun hlock => ?_,
      fun hlock => ⟨?_, ?_⟩⟩
    · rw [State.hostMove, hostRegWrite_reg h4 hr, hb]
      rfl
    · exact writeReg_of_unlocked (Bool.eq_false_iff.mpr (mt (Reg.lockedWhileBusy_iff r).mp hlock)) hc
    · rw [State.registerAt_address, readReg_writeReg ((Reg.lockedWhileBusy_iff r).mpr hlock) hm, if_pos rfl,
        Reg.stored_eq]
    · exact fun a ha => registerAt_writeReg_other ((Reg.lockedWhileBusy_iff r).mpr hlock) hm ha
  · exact ⟨{ s with agenda := rest }, hostRegWrite_reserved h4 hr, rfl, fun _ => rfl,
      fun hlock => absurd hlock (reserved_not_mem hres).1⟩

/-- Settles O8: the read goes to the register at the offset, and a reserved offset reads 0. -/
theorem registerReads : Obligations.RegisterReads := by
  intro s offset rest h4 hagenda
  rw [step_host hagenda]
  obtain ⟨r, hr, haddr⟩ | ⟨hr, hres⟩ := regAt_cases h4
  · rw [State.hostMove, hostRegRead_reg h4 hr, haddr, State.registerAt_address]
    simp only [Bool.and_eq_true, Reg.unspecifiedWhileBusy_iff]
    rfl
  · rw [State.hostMove, hostRegRead_reserved h4 hr, State.registerAt_reserved s hres,
      if_neg fun h => (reserved_not_mem hres).2 h.2]
    rfl

/-! ### Fields -/

section fields
variable {n k w : Nat} {b : Bool}

/-- A flag at bit `k` of a register that holds the number `n`. -/
theorem getLsbD_u32 (hk : k < 32) (h : n / 2 ^ k % 2 = b.toNat) : (u32 n).getLsbD k = b := by
  rw [u32, BitVec.getLsbD_ofNat, decide_eq_true hk, Bool.true_and, Nat.testBit_eq_decide_div_mod_eq, h]
  cases b <;> rfl

/-- A field of `w` bits at bit `k` of a register that holds the number `n`. -/
theorem toNat_extractLsb'_u32 (hn : n < 2 ^ 32) : ((u32 n).extractLsb' k w).toNat = n / 2 ^ k % 2 ^ w := by
  rw [BitVec.extractLsb'_toNat, toNat_u32 hn, Nat.shiftRight_eq_div_pow]

theorem extractLsb'_u32 {v : BitVec w} (hn : n < 2 ^ 32) (h : n / 2 ^ k % 2 ^ w = v.toNat) :
    (u32 n).extractLsb' k w = v :=
  BitVec.eq_of_toNat_eq ((toNat_extractLsb'_u32 hn).trans h)

/-- A reserved field: the number has no bit there. -/
theorem extractLsb'_u32_reserved (hn : n < 2 ^ 32) (h : n / 2 ^ k % 2 ^ w = 0) : (u32 n).extractLsb' k w = 0 :=
  extractLsb'_u32 hn (h.trans BitVec.toNat_zero.symm)

end fields

/-- The fields of STATUS (R23). -/
theorem statusWord_fields (s : State) :
    s.statusWord.getLsbD 0 = s.busy ∧ s.statusWord.getLsbD 1 = s.status.done ∧ s.statusWord.getLsbD 2 = s.status.err
      ∧ s.statusWord.getLsbD 3 = s.status.lost ∧ s.statusWord.extractLsb' 4 4 = 0
      ∧ s.statusWord.extractLsb' 8 8 = s.status.errCode ∧ s.statusWord.extractLsb' 16 16 = 0 := by
  have hbusy := s.busy.toNat_le
  have hdone := s.status.done.toNat_le
  have herr := s.status.err.toNat_le
  have hlost := s.status.lost.toNat_le
  have hcode := s.status.errCode.isLt
  simp only [State.statusWord, bitAt]
  refine ⟨getLsbD_u32 (by omega) ?_, getLsbD_u32 (by omega) ?_, getLsbD_u32 (by omega) ?_, getLsbD_u32 (by omega) ?_,
    extractLsb'_u32_reserved (by omega) ?_, extractLsb'_u32 (by omega) ?_, extractLsb'_u32_reserved (by omega) ?_⟩
  all_goals omega

/-- The fields of CTRL (R24). -/
theorem ctrlWord_fields (s : State) : s.ctrlWord.getLsbD 0 = s.irqEn ∧ s.ctrlWord.extractLsb' 1 31 = 0 := by
  have hirq := s.irqEn.toNat_le
  simp only [State.ctrlWord, bitAt]
  refine ⟨getLsbD_u32 (by omega) ?_, extractLsb'_u32_reserved (by omega) ?_⟩
  all_goals omega

/-- The fields of HDR_IL (R35). -/
theorem ilWord_fields (h : Header) : h.ilWord.extractLsb' 0 8 = h.il ∧ h.ilWord.extractLsb' 8 24 = 0 := by
  have hlt := h.il.isLt
  have hw : h.ilWord = u32 h.il.toNat := BitVec.eq_of_toNat_eq (by simp [Header.ilWord, u32])
  rw [hw]
  refine ⟨extractLsb'_u32 (by omega) ?_, extractLsb'_u32_reserved (by omega) ?_⟩
  all_goals omega

theorem IdatState.code_le (i : IdatState) : i.code ≤ 2 := by
  cases i <;> decide

/-- The fields of FR_STATE (R36). -/
theorem frState_fields (f : FrState) :
    f.toWord.getLsbD 0 = f.sigOk ∧ f.toWord.getLsbD 1 = f.order.ihdrSeen ∧ f.toWord.getLsbD 2 = f.order.plteSeen
      ∧ (f.toWord.extractLsb' 3 2).toNat = f.order.idat.code ∧ f.toWord.getLsbD 5 = f.order.iendSeen
      ∧ f.toWord.getLsbD 6 = f.fail ∧ f.toWord.getLsbD 7 = f.done ∧ f.toWord.extractLsb' 8 24 = 0 := by
  have hsig := f.sigOk.toNat_le
  have hihdr := f.order.ihdrSeen.toNat_le
  have hplte := f.order.plteSeen.toNat_le
  have hidat := f.order.idat.code_le
  have hiend := f.order.iendSeen.toNat_le
  have hfail := f.fail.toNat_le
  have hdone := f.done.toNat_le
  simp only [FrState.toWord, ChunkOrder.bits, bitAt]
  refine ⟨getLsbD_u32 (by omega) ?_, getLsbD_u32 (by omega) ?_, getLsbD_u32 (by omega) ?_,
    (toNat_extractLsb'_u32 (by omega)).trans ?_, getLsbD_u32 (by omega) ?_, getLsbD_u32 (by omega) ?_,
    getLsbD_u32 (by omega) ?_, extractLsb'_u32_reserved (by omega) ?_⟩
  all_goals omega

/-- The fields of EM_STATE (R40). -/
theorem emState_fields (e : EmState) :
    e.toWord.getLsbD 0 = e.started ∧ e.toWord.getLsbD 1 = e.order.ihdrSeen ∧ e.toWord.getLsbD 2 = e.order.plteSeen
      ∧ (e.toWord.extractLsb' 3 2).toNat = e.order.idat.code ∧ e.toWord.getLsbD 5 = e.order.iendSeen
      ∧ e.toWord.extractLsb' 6 26 = 0 := by
  have hstarted := e.started.toNat_le
  have hihdr := e.order.ihdrSeen.toNat_le
  have hplte := e.order.plteSeen.toNat_le
  have hidat := e.order.idat.code_le
  have hiend := e.order.iendSeen.toNat_le
  simp only [EmState.toWord, ChunkOrder.bits, bitAt]
  refine ⟨getLsbD_u32 (by omega) ?_, getLsbD_u32 (by omega) ?_, getLsbD_u32 (by omega) ?_,
    (toNat_extractLsb'_u32 (by omega)).trans ?_, getLsbD_u32 (by omega) ?_, extractLsb'_u32_reserved (by omega) ?_⟩
  all_goals omega

/-- Settles O9: register by register. -/
theorem statusFieldPlaces : Obligations.StatusFieldPlaces := fun s =>
  ⟨statusWord_fields s, ctrlWord_fields s, ilWord_fields s.regs.hdr, frState_fields s.regs.fr, emState_fields s.regs.em⟩

/-! ### CTRL and IRQ -/

/-- A write to CTRL with SRST = 0 (R24). -/
theorem writeCtrl_eq {s : State} {v : Word} (h : v.getLsbD 2 = false) :
    s.writeCtrl v =
      { s with irqEn := v.getLsbD 0, status := if v.getLsbD 1 then ⟨false, false, false, 0⟩ else s.status } := by
  rw [State.writeCtrl, h, if_neg Bool.false_ne_true]
  cases v.getLsbD 1 <;> rfl

/-- Settles O11: CTRL is locked in no phase. -/
theorem controlWrite : Obligations.ControlWrite := by
  intro s v rest hagenda hsrst
  rw [step_host hagenda, State.hostMove, hostRegWrite_reg (r := .ctrl) rfl rfl, Reg.lockedWhileBusy, Bool.and_false,
    if_neg Bool.false_ne_true]
  exact congrArg _ (writeCtrl_eq hsrst)

/-- Settles O13: IRQ is read off the bits of CTRL and STATUS. -/
theorem interruptLevel : Obligations.InterruptLevel := by
  intro s rest hagenda
  obtain ⟨-, hdone, herr, -⟩ := statusWord_fields s
  rw [step_host hagenda, (ctrlWord_fields s).1, hdone, herr]
  cases hirq : s.irqEn && (s.status.done || s.status.err) <;>
    simp [State.hostMove, State.hostIrqSample, State.answerHost, State.irq, bitAt, u32, hirq]

end Sys2Proof.Machine
end

section
/-!
PROOFS. CRC_UPDATE, FR_START, EM_START and EM_IDAT when their checks hold (41_chunk_framer.md R131, R138, R150, R157).
-/

namespace Sys2Proof.Machine

/-! ### CRC_UPDATE and FR_START -/

/-- Settles O24: eight turns of the bit rule are one turn of the byte rule. -/
theorem crcUpdateAbsorbs : Obligations.CrcUpdateAbsorbs := by
  intro s l ci cf hbusy o bit absorb c hfits
  have hc : crcAbsorb (if ci then crcInit else o.crc) (s.memRead o.arg0.toNat o.arg1.toNat) = c := rfl
  have hchecks : allHold (rangeChecks (.crcUpdate ci cf) o s) :=
    allHold_rangeChecks.mpr ⟨by simpa [RangesFit, readSet, writeSet] using hfits, by simp [RangesApart, writeSet]⟩
  calc exec (.crcUpdate ci cf) s = conclude (rangeChecks (.crcUpdate ci cf) o s) s.failWith _ := by
        simp only [exec, execCrcUpdate, State.operands_busy hbusy]
        rfl
    _ = _ := conclude_pass hchecks
    _ = _ := by rw [crcUpdate_completed, hc]; rfl

/-- The checks of FR_START hold on a stream in the memory that begins with the signature (R138). -/
theorem allHold_frStartChecks {o : OperandRegs} {s : State} (h8 : 8 ≤ o.arg1.toNat)
    (hfits : o.arg0.toNat + o.arg1.toNat ≤ u32Max) (hin : o.arg0.toNat + o.arg1.toNat ≤ s.memSize)
    (hsig : s.memRead o.arg0.toNat 8 = pngSignature) : allHold (frStartChecks o s) := by
  have hbyte (i : Nat) (hi : i < 8) : s.readByte (o.arg0.toNat + i) = byteAt pngSignature i := by
    rw [← hsig, byteAt, State.getD_memRead hi]
  refine allHold_append.mpr ⟨allHold_append.mpr ⟨by simpa [allHold] using hfits, ?_⟩, allHold_append.mpr ⟨?_, ?_⟩⟩
  · exact allHold_boundsChecks.mpr (by simpa [Range.inBounds_iff] using .inr hin)
  · intro c hc
    obtain ⟨i, hi, rfl⟩ := List.mem_map.mp hc
    exact beq_iff_eq.mpr (hbyte i (by have := List.mem_range.mp hi; omega))
  · simpa [allHold] using h8

/-- Settles O25: every check holds. -/
theorem parseStarts : Obligations.ParseStarts := by
  intro s l hbusy o h8 hfits hin hsig
  have hchecks := allHold_frStartChecks (o := o) (s := s) h8 hfits hin hsig
  simp only [exec, execFrStart, State.operands_busy hbusy]
  rw [conclude_pass hchecks]
  rfl

/-! ### EM_START -/

theorem sameOutside_completed_of_length {s : State} {a n : Nat} {bs : List Byte} {g : OperandRegs} {r0 r1 r2 r3 : Word}
    (h : bs.length = n) : SameOutside s (s.completed (Memory.writeBytes s.mem a bs) g r0 r1 r2 r3) ⟨a, n⟩ :=
  h ▸ sameOutside_completed

theorem memRead_completed_same {s : State} {a : Nat} {bs : List Byte} {g : OperandRegs} {r0 r1 r2 r3 : Word} :
    (s.completed (Memory.writeBytes s.mem a bs) g r0 r1 r2 r3).memRead a bs.length = bs :=
  State.memRead_memWrite_same s a bs

/-- Settles O28: every check holds, and the written bytes are the signature. -/
theorem emitStarts : Obligations.EmitStarts := by
  intro s l hbusy o h8 hfits hin
  have hfits : o.arg0.toNat + o.arg1.toNat ≤ u32Max := hfits
  have hchecks : allHold (emStartChecks o s) := by
    refine allHold_append.mpr ⟨by simpa [allHold] using ⟨hfits, h8⟩, ?_⟩
    exact allHold_boundsChecks.mpr (by simpa [Range.inBounds_iff] using .inr hin)
  refine ⟨s.completed (Memory.writeBytes s.mem o.arg0.toNat pngSignature) _ 8 0 0 0, ?_, rfl, memRead_completed_same,
    sameOutside_completed⟩
  simp only [exec, execEmStart, State.operands_busy hbusy]
  rw [conclude_pass hchecks]
  rfl

/-! ### EM_IDAT -/

/-- A part of a read is the read of the part. -/
theorem State.take_drop_memRead (s : State) {a k m n : Nat} (h : k + m ≤ n) :
    ((s.memRead a n).drop k).take m = s.memRead (a + k) m := by
  obtain ⟨d, rfl⟩ := Nat.exists_eq_add_of_le h
  rw [Nat.add_assoc, State.memRead_append, List.drop_left' (State.memRead_length s a k), State.memRead_append,
    List.take_left' (State.memRead_length ..)]

/-- What a read holds from its byte `k` on, cut at `m` bytes. -/
theorem State.take_drop_memRead_min (s : State) {a k m n : Nat} (h : k ≤ n) :
    ((s.memRead a n).drop k).take m = s.memRead (a + k) (min m (n - k)) := by
  rw [List.take_eq_take_min, List.length_drop, State.memRead_length, State.take_drop_memRead s (by omega)]

/-- A read of a part of what was just written. -/
theorem State.memRead_memWrite_part (s : State) {a k m : Nat} {bs : List Byte} (h : k + m ≤ bs.length) :
    (s.memWrite a bs).memRead (a + k) m = (bs.drop k).take m := by
  rw [← State.take_drop_memRead _ h, State.memRead_memWrite_same]

/-- Chunk `j` is the last one or is followed by a chunk: its payload begins inside the payload of the run (R157). -/
theorem idatChunks_start {len m j : Nat} (hm : m ≠ 0) (hj : j < idatChunks len m) : j * m ≤ len := by
  have hpos := Nat.pos_of_ne_zero hm
  rcases lt_max_iff.mp hj with h | h
  · simp [Nat.lt_one_iff.mp h]
  · have h1 : (j + 1) * m ≤ len + m - 1 := (Nat.le_div_iff_mul_le hpos).mp h
    have h2 : (j + 1) * m = j * m + m := Nat.succ_mul j m
    omega

/-- The chunk `j` of a run of IDAT chunks stands at the end of `j` whole chunks (R157). -/
theorem idatRun_chunk {p : List Byte} {m j : Nat} (hm : m ≠ 0) (hj : j < idatChunks p.length m) :
    ((idatRun p m).drop (j * (12 + m))).take (12 + min m (p.length - j * m))
      = chunkBytes tIDAT ((p.drop (j * m)).take m) := by
  obtain ⟨d, hd⟩ := Nat.exists_eq_add_of_lt hj
  have hstart := idatChunks_start hm hj
  rw [idatRun, hd, Nat.add_assoc, List.range_add, List.flatMap_append, Nat.add_comm d 1, List.range_add,
    List.map_append, List.flatMap_append]
  rw [List.drop_left', List.take_left']
  · simp
  · simp only [List.range_one, List.map_singleton, List.flatMap_singleton, Nat.add_zero]
    rw [chunkBytes_length rfl, List.length_take, List.length_drop]
  · rw [idatRun_prefix_length, min_eq_left hstart]
    ring

/-- An 'IDAT' that Accept takes makes the run open (R137). -/
theorem ChunkOrder.update_tIDAT (c : ChunkOrder) : c.update tIDAT = { c with idat := .isOpen } := by
  cases c with
  | mk ihdr plte idat iend => cases ihdr <;> cases plte <;> cases iend <;> rfl

/-- Accept takes an 'IDAT' after the header, before the end and not after a closed run (R133). -/
theorem allHold_acceptChecks_tIDAT {c : ChunkOrder} (q : Word) (hend : c.iendSeen = false) (hihdr : c.ihdrSeen = true)
    (hopen : c.idat ≠ .closed) : allHold (acceptChecks c q tIDAT 0 []) := by
  simp [acceptChecks, allHold, tIDAT, tIHDR, tPLTE, tIEND, hend, hihdr, hopen]

/-- The checks of EM_IDAT hold (R157). -/
theorem allHold_emIdatChecks {o : OperandRegs} {s : State}
    (hstarted : o.em.started = true) (hm : o.idatMax.toNat ≠ 0)
    (hsize : 12 * idatChunks o.arg2.toNat o.idatMax.toNat + o.arg2.toNat ≤ u32Max)
    (hroom : 12 * idatChunks o.arg2.toNat o.idatMax.toNat + o.arg2.toNat ≤ o.emLimit.toNat - o.emCursor.toNat)
    (hfit : RangesFit .emIdat o s) (hapart : RangesApart .emIdat o s) (hend : o.em.order.iendSeen = false)
    (hihdr : o.em.order.ihdrSeen = true) (hopen : o.em.order.idat ≠ .closed) : allHold (emIdatChecks o s) := by
  have hm : o.idatMax ≠ 0 := fun h => hm (h ▸ rfl)
  simp only [RangesFit, RangesApart, readSet, writeSet, List.mem_append, List.mem_singleton, or_imp, forall_and,
    forall_eq] at hfit hapart
  obtain ⟨hread, hwrite⟩ := hfit
  simp only [emIdatChecks, emitBounds, allHold_append, allHold_boundsChecks, allHold_overlapChecks, List.mem_singleton,
    forall_eq, Range.inBounds_iff, Range.overlaps_eq_false_iff_apart]
  refine ⟨⟨⟨⟨?_, hread⟩, hwrite⟩, hapart⟩, allHold_acceptChecks_tIDAT _ hend hihdr hopen⟩
  simpa [allHold, emSequence, emCapacity, hstarted] using ⟨hm, hsize, hroom⟩

/-- EM_IDAT whose checks hold writes the run of its payload (R157). -/
theorem exec_emIdat_of_checks {s : State} {l : Latched} (hbusy : s.phase = .busy l) (hm : l.regs.idatMax.toNat ≠ 0)
    (hchecks : allHold (emIdatChecks l.regs s)) :
    let o := l.regs
    let k := idatChunks o.arg2.toNat o.idatMax.toNat
    let n := 12 * k + o.arg2.toNat
    let run := idatRun (s.memRead o.arg1.toNat o.arg2.toNat) o.idatMax.toNat
    run.length = n ∧ exec .emIdat s = .next (s.completed (Memory.writeBytes s.mem o.emCursor.toNat run)
      { s.regs with
        em := { o.em with order := { o.em.order with idat := .isOpen } }
        emCursor := u32 (o.emCursor.toNat + n) } (u32 n) (u32 k) 0 0) := by
  intro o k n run
  have hrun : run.length = n := by rw [idatRun_length hm, State.memRead_length]
  refine ⟨hrun, ?_⟩
  simp only [exec, execEmIdat, State.operands_busy hbusy]
  rw [conclude_pass hchecks, emit_completed, ChunkOrder.update_tIDAT, hrun]

/-- Settles O31: the run that is written has chunk `j` at the end of `j` whole chunks. -/
theorem payloadIsSplit : Obligations.PayloadIsSplit := by
  intro s l hbusy o at0 len m k hstarted hm hsize hroom hmem hfit hapart hend hihdr hopen
  have hk : idatChunks len m = k := rfl
  have hchecks : allHold (emIdatChecks o s) :=
    allHold_emIdatChecks hstarted hm (by rw [hk]; exact hsize) (by rw [hk]; omega) hfit hapart hend hihdr hopen
  obtain ⟨hrun, hexec⟩ := exec_emIdat_of_checks hbusy hm hchecks
  refine ⟨_, hexec, by rw [Nat.add_assoc at0]; rfl, fun j hj => ?_, ?_⟩
  · intro lj pj
    have hp : (s.memRead o.arg1.toNat len).length = len := State.memRead_length ..
    have hstart : j * m ≤ len := idatChunks_start hm hj
    have hpart : j * (12 + m) + (12 + lj) ≤ 12 * k + len := by
      have : j * (12 + m) = 12 * j + j * m := by ring
      omega
    have hchunk := idatRun_chunk (p := s.memRead o.arg1.toNat len) hm (by rwa [hp])
    rw [hp, State.take_drop_memRead_min s hstart] at hchunk
    calc State.memRead _ (at0 + j * (12 + m)) (12 + lj) = _ := State.memRead_memWrite_part s (hrun ▸ hpart)
      _ = chunkBytes tIDAT pj := hchunk
      _ = bytesBE4 (u32 lj) ++ tIDAT ++ pj ++ bytesBE4 (crc32 (tIDAT ++ pj)) := by
        rw [chunkBytes, State.memRead_length]
  · exact sameOutside_completed_of_length hrun

end Sys2Proof.Machine
end

section
/-!
PROOFS. One scanline of an image walk (43_filter_engine.md R208, R209; 10_state.md R47): what a filter-type byte writes
and where it leaves the walk.
-/

namespace Sys2Proof.Machine

/-! ### The two kinds of walk -/

/-- The source bytes of a scanline of `rb` row bytes. -/
def WalkKind.taken (k : WalkKind) (rb : Nat) : Nat :=
  match k with
  | .unfilter => 1 + rb
  | .filter _ => rb

/-- The bytes such a scanline writes. -/
def WalkKind.made (k : WalkKind) (rb : Nat) : Nat :=
  match k with
  | .unfilter => rb
  | .filter _ => 1 + rb

/-- What filter type `t` makes of the source bytes `src` of a scanline. -/
def WalkKind.written (k : WalkKind) (t : FilterType) (bpp : Nat) (prior src : List Byte) : List Byte :=
  match k with
  | .unfilter => unfilterBytes t bpp (src.drop 1) prior
  | .filter _ => filteredRow t bpp src prior

/-- The unfiltered row of a scanline with source bytes `src` and written bytes `out`: the next scanline's prior row. -/
def WalkKind.rawRow (k : WalkKind) (src out : List Byte) : List Byte :=
  match k with
  | .unfilter => out
  | .filter _ => src

/-- RES0 of the image command (R208, R209). -/
def WalkKind.imageBytes (k : WalkKind) (h : Header) : Nat :=
  match k with
  | .unfilter => rawBytes h.passRows
  | .filter _ => filteredBytes h.passRows

theorem WalkKind.written_length {k : WalkKind} {t : FilterType} {bpp rb : Nat} {prior src : List Byte}
    (h : src.length = k.taken rb) : (k.written t bpp prior src).length = k.made rb := by
  cases k <;> simp_all [WalkKind.written, WalkKind.made, WalkKind.taken]

section scanline
variable {s : State} {l : Latched} {w : RowWalk}

/-- A filter-type byte on a scanline in the memory writes it and moves the walk on. -/
theorem filterScanline_eq (ty : FilterType) (hrow : s.row = some w)
    (hsrc : (Range.mk w.src (w.kind.taken w.rb)).Fits s.memSize)
    (hdst : (Range.mk w.dst (w.kind.made w.rb)).Fits s.memSize) :
    let src := s.memRead w.src (w.kind.taken w.rb)
    let out := w.kind.written ty w.bpp w.prior src
    filterScanline ty s = .next ((s.memWrite w.dst out).afterRow w.kind
      (w.advance (w.kind.taken w.rb) (w.kind.made w.rb) (w.kind.rawRow src out))) := by
  intro src out
  obtain ⟨kind, bpp, a, b, rb, n, prior, rest⟩ := w
  have hin := Bool.and_eq_true_iff.mpr ⟨Range.inBounds_iff.mpr hsrc, Range.inBounds_iff.mpr hdst⟩
  cases kind with
  | unfilter =>
    have hfilt : s.memRead (a + 1) rb = src.drop 1 := by
      simp only [src, WalkKind.taken]
      rw [State.memRead_append, List.drop_left' (State.memRead_length s a 1)]
    simp only [filterScanline, hrow, hfilt]
    exact if_pos hin
  | filter ft =>
    simp only [filterScanline, hrow]
    exact if_pos hin

/-- The end of a walk, as the state it leaves. -/
theorem walkResults_completed (hbusy : s.phase = .busy l) (k : WalkKind) (a : Nat) (bs : List Byte) :
    ((s.memWrite a bs).walkResults k).succeed = s.completed (Memory.writeBytes s.mem a bs) s.regs
      (u32 (k.imageBytes l.regs.hdr)) (u32 (scanlines l.regs.hdr.passRows)) 0 0 := by
  have ho : (s.memWrite a bs).operands = l.regs := State.operands_busy hbusy
  cases k <;> simp only [State.walkResults, ho] <;> rfl

/-- Where a scanline leaves the machine, with memory `m` and unfiltered row `row`: at the next scanline of the pass, at
the first of the next pass with the zero row, or with the command completed (R47, R208, R209). -/
def State.movedOn (s : State) (l : Latched) (w : RowWalk) (m : Memory) (row : List Byte) : State :=
  let src := w.src + w.kind.taken w.rb
  let dst := w.dst + w.kind.made w.rb
  if 1 < w.left then
    { s with mem := m, row := some { w with src := src, dst := dst, left := w.left - 1, prior := row } }
  else
    match w.rest with
    | (rb, n) :: rest =>
      { s with
        mem := m
        row := some { w with src := src, dst := dst, rb := rb, left := n, prior := zeros rb, rest := rest } }
    | [] => s.completed m s.regs (u32 (w.kind.imageBytes l.regs.hdr)) (u32 (scanlines l.regs.hdr.passRows)) 0 0

theorem afterRow_advance (hbusy : s.phase = .busy l) (a : Nat) (row bs : List Byte) :
    (s.memWrite a bs).afterRow w.kind (w.advance (w.kind.taken w.rb) (w.kind.made w.rb) row)
      = s.movedOn l w (Memory.writeBytes s.mem a bs) row := by
  unfold State.movedOn
  by_cases hleft : 1 < w.left
  · simp only [RowWalk.advance, if_pos hleft]
    rfl
  · simp only [RowWalk.advance, if_neg hleft]
    cases w.rest with
    | cons p rest => rfl
    | nil => exact walkResults_completed hbusy w.kind a bs

/-- The written bytes are all that a scanline changes of the memory. -/
theorem movedOn_mem (m : Memory) (row : List Byte) :
    (s.movedOn l w m row).mem = m ∧ (s.movedOn l w m row).epoch = s.epoch := by
  unfold State.movedOn
  by_cases hleft : 1 < w.left
  · simp only [if_pos hleft, and_self]
  · simp only [if_neg hleft]
    cases w.rest <;> exact ⟨rfl, rfl⟩

end scanline

/-! ### The bytes of one scanline -/

theorem neighbour_congr {bpp i : Nat} {f g : Nat → Byte} (h : ∀ j ≤ i, f j = g j) :
    neighbour bpp i f = neighbour bpp i g := by
  unfold neighbour
  rw [h (i - bpp) (Nat.sub_le i bpp)]

/-- Reconstruction goes from left to right: a byte keeps its value when later ones are added (R194-R198). -/
theorem byteAt_reconBytes {t : FilterType} {bpp : Nat} {filt prior : List Byte} {i m n : Nat} (hi : i < m)
    (hm : m ≤ n) : byteAt (reconBytes t bpp filt prior n) i = byteAt (reconBytes t bpp filt prior m) i := by
  induction n, hm using Nat.le_induction with
  | base => rfl
  | succ n hmn ih =>
    rw [← ih, reconBytes, byteAt, List.getD_append _ _ _ _ (by rw [reconBytes_length]; omega)]
    rfl

/-- Recon(x) = Filt(x) + Pred(Recon(a), Prior(b), Prior(c)) for every byte of the row (R193-R198). -/
theorem byteAt_unfilterBytes {t : FilterType} {bpp : Nat} {filt prior : List Byte} {i : Nat} (hbpp : 1 ≤ bpp)
    (hi : i < filt.length) :
    byteAt (unfilterBytes t bpp filt prior) i = byteAt filt i
      + predictor t (neighbour bpp i (byteAt (unfilterBytes t bpp filt prior))) (byteAt prior i)
        (neighbour bpp i (byteAt prior)) := by
  have hleft : leftByte bpp (reconBytes t bpp filt prior i) i
      = neighbour bpp i (byteAt (unfilterBytes t bpp filt prior)) := by
    unfold leftByte neighbour unfilterBytes
    split_ifs with h
    · exact (byteAt_reconBytes (by omega) hi.le).symm
    · rfl
  calc byteAt (unfilterBytes t bpp filt prior) i = byteAt (reconBytes t bpp filt prior (i + 1)) i :=
        byteAt_reconBytes (Nat.lt_succ_self i) hi
    _ = byteAt filt i + predictAt t bpp (reconBytes t bpp filt prior i) prior i := by
        rw [reconBytes, byteAt, List.getD_append_right _ _ _ _ (by rw [reconBytes_length]), reconBytes_length,
          Nat.sub_self]
        rfl
    _ = _ := by rw [predictAt, hleft]; rfl

/-- Filt(x) = Raw(x) − Pred(Raw(a), Prior(b), Prior(c)) for every byte of the row (R193, R199-R203). -/
theorem byteAt_filterBytes {t : FilterType} {bpp : Nat} {raw prior : List Byte} {i : Nat} (hi : i < raw.length) :
    byteAt (filterBytes t bpp raw prior) i
      = byteAt raw i - predictor t (neighbour bpp i (byteAt raw)) (byteAt prior i) (neighbour bpp i (byteAt prior)) :=
  byteAt_map_range hi

theorem byteAt_memRead {s : State} {a n i : Nat} (hi : i < n) : byteAt (s.memRead a n) i = s.readByte (a + i) :=
  State.getD_memRead hi

section written
variable {s t : State} {a : Nat} {bs : List Byte}

/-- A state that differs from `s` in the written bytes reads as a write to `s` does. -/
theorem readByte_of_mem (hmem : t.mem = Memory.writeBytes s.mem a bs) (hepoch : t.epoch = s.epoch) (x : Nat) :
    t.readByte x = (s.memWrite a bs).readByte x := by
  simp only [State.readByte, State.memWrite_mem, State.memWrite_epoch, hmem, hepoch]

theorem readByte_written (hmem : t.mem = Memory.writeBytes s.mem a bs) (hepoch : t.epoch = s.epoch) {i : Nat}
    (hi : i < bs.length) : t.readByte (a + i) = byteAt bs i := by
  rw [readByte_of_mem hmem hepoch, State.readByte_memWrite_inside hi, byteAt]

theorem sameOutside_written (hmem : t.mem = Memory.writeBytes s.mem a bs) (hepoch : t.epoch = s.epoch) {n : Nat}
    (hn : bs.length = n) : SameOutside s t ⟨a, n⟩ := by
  intro x hx
  rw [readByte_of_mem hmem hepoch, State.readByte_memWrite_outside (by rw [hn]; exact hx)]

end written

/-! ### The filter-type bytes -/

/-- What a filter-type byte does to a scanline in the memory: it writes the bytes it makes of the source, and the walk
moves on. -/
theorem exec_filterInstr_scanline {s : State} {l : Latched} {w : RowWalk} (ty : FilterType) (hbusy : s.phase = .busy l)
    (hrow : s.row = some w) (hsrc : (Range.mk w.src (w.kind.taken w.rb)).Fits s.memSize)
    (hdst : (Range.mk w.dst (w.kind.made w.rb)).Fits s.memSize) :
    let src := s.memRead w.src (w.kind.taken w.rb)
    let out := w.kind.written ty w.bpp w.prior src
    ∃ t, exec (filterInstr ty) s = .next t ∧ t.mem = Memory.writeBytes s.mem w.dst out ∧ t.epoch = s.epoch
      ∧ t = s.movedOn l w t.mem (w.kind.rawRow src out) := by
  intro src out
  obtain ⟨hmem, hepoch⟩ := movedOn_mem (s := s) (l := l) (w := w) (Memory.writeBytes s.mem w.dst out)
    (w.kind.rawRow src out)
  refine ⟨_, ?_, hmem, hepoch, by rw [hmem]⟩
  rw [exec_filterInstr, filterScanline_eq ty hrow hsrc hdst, afterRow_advance hbusy]

/-- Settles O37: the scanline is written as R194-R198 reconstruct it, and the walk moves on. -/
theorem filterBytesReconstruct : Obligations.FilterBytesReconstruct := by
  intro s l w ty hbusy hrow hkind hbpp hsrc hdst
  obtain ⟨kind, bpp, a, b, rb, n, prior, rest⟩ := w
  obtain rfl : kind = .unfilter := hkind
  obtain ⟨t, hexec, hmem, hepoch, ht⟩ := exec_filterInstr_scanline ty hbusy hrow hsrc hdst
  have hfilt : (s.memRead a (1 + rb)).drop 1 = s.memRead (a + 1) rb := by
    rw [State.memRead_append, List.drop_left' (State.memRead_length s a 1)]
  simp only [WalkKind.written, WalkKind.taken, WalkKind.rawRow, hfilt] at hmem ht
  have hlen : (unfilterBytes ty bpp (s.memRead (a + 1) rb) prior).length = rb := by simp
  have hbyte (i : Nat) (hi : i < rb) :
      t.readByte (b + i) = byteAt (unfilterBytes ty bpp (s.memRead (a + 1) rb) prior) i :=
    readByte_written hmem hepoch (hlen.symm ▸ hi)
  have hprior : t.memRead b rb = unfilterBytes ty bpp (s.memRead (a + 1) rb) prior := by
    rw [← hlen, State.memRead_congr fun k _ => readByte_of_mem hmem hepoch (b + k), State.memRead_memWrite_same, hlen]
  refine ⟨t, hexec, sameOutside_written hmem hepoch hlen, fun i (hi : i < rb) => ?_, ?_⟩
  · rw [hbyte i hi, neighbour_congr fun j hj => hbyte j (by omega), byteAt_unfilterBytes hbpp (by simpa using hi),
      byteAt_memRead hi]
  · rw [hprior, Nat.add_assoc a]
    exact ht

/-- Settles O38: the type byte and the bytes R199-R203 filter are written, and the walk moves on. -/
theorem filterBytesFilter : Obligations.FilterBytesFilter := by
  refine ⟨fun s l w ft ty hbusy hrow hkind hsrc hdst => ?_, fun s ty hrow => ?_⟩
  · obtain ⟨kind, bpp, a, b, rb, n, prior, rest⟩ := w
    obtain rfl : kind = .filter ft := hkind
    obtain ⟨t, hexec, hmem, hepoch, ht⟩ := exec_filterInstr_scanline ty hbusy hrow hsrc hdst
    simp only [WalkKind.written, WalkKind.taken, WalkKind.rawRow] at hmem ht
    have hlen : (filteredRow ty bpp (s.memRead a rb) prior).length = 1 + rb := by simp
    have hbyte (i : Nat) (hi : i < 1 + rb) :
        t.readByte (b + i) = byteAt (filteredRow ty bpp (s.memRead a rb) prior) i :=
      readByte_written hmem hepoch (hlen.symm ▸ hi)
    refine ⟨t, hexec, sameOutside_written hmem hepoch hlen, hbyte 0 (by omega), fun i (hi : i < rb) => ?_, ?_⟩
    · have hraw (j : Nat) (hj : j ≤ i) : s.readByte (a + j) = byteAt (s.memRead a rb) j :=
        (byteAt_memRead (by omega)).symm
      calc t.readByte (b + 1 + i) = byteAt (filteredRow ty bpp (s.memRead a rb) prior) (1 + i) := by
            rw [Nat.add_assoc, hbyte (1 + i) (by omega)]
        _ = byteAt (filterBytes ty bpp (s.memRead a rb) prior) i := by
            rw [Nat.add_comm, filteredRow, byteAt, List.getD_cons_succ, byteAt]
        _ = _ := by
            rw [byteAt_filterBytes (by simpa using hi), neighbour_congr hraw, hraw i le_rfl]
    · rw [Nat.add_assoc b]
      exact ht
  · rw [exec_filterInstr]
    simp only [filterScanline, hrow]

end Sys2Proof.Machine
end

section
/-!
PROOFS. An image command by scanlines ends where the command as one step ends (70_reset_and_hazards.md R280): the rows a
walk writes one after the other are the rows the command writes at once.
-/

namespace Sys2Proof.Machine

/-! ### The image commands, both kinds in one -/

/-- The filter type of a scanline with source bytes `src`: the one in the stream, or the one FT selects (R205, R209). -/
def WalkKind.scanType (k : WalkKind) (bpp : Nat) (prior src : List Byte) : FilterType :=
  match k with
  | .unfilter => typeOfByte (byteAt src 0)
  | .filter ft => selectType ft bpp src prior

/-- What the walk writes for a scanline with source bytes `src`. -/
def WalkKind.scanOut (k : WalkKind) (bpp : Nat) (prior src : List Byte) : List Byte :=
  k.written (k.scanType bpp prior src) bpp prior src

/-- The rows of one pass. -/
def WalkKind.passOut (k : WalkKind) (bpp rb n : Nat) (prior src : List Byte) : List Byte :=
  match k with
  | .unfilter => unfilterPass bpp rb n prior src
  | .filter ft => filterPass ft bpp rb n prior src

/-- The rows of an image. -/
def WalkKind.imageOut (k : WalkKind) (bpp : Nat) (ps : List (Nat × Nat)) (src : List Byte) : List Byte :=
  match k with
  | .unfilter => unfilterStream bpp ps src
  | .filter ft => filterStream ft bpp ps src

/-- The source bytes of an image. -/
def WalkKind.takenAll (k : WalkKind) (ps : List (Nat × Nat)) : Nat :=
  match k with
  | .unfilter => filteredBytes ps
  | .filter _ => rawBytes ps

/-- The bytes written for an image. -/
def WalkKind.madeAll (k : WalkKind) (ps : List (Nat × Nat)) : Nat :=
  match k with
  | .unfilter => rawBytes ps
  | .filter _ => filteredBytes ps

/-- The command that walks. -/
def WalkKind.instr (k : WalkKind) : Instr :=
  match k with
  | .unfilter => .unfilterImage
  | .filter ft => .filterImage ft

/-- The checks of the command. -/
def WalkKind.checks (k : WalkKind) (o : OperandRegs) (s : State) : List Check :=
  match k with
  | .unfilter => unfilterImageChecks o s
  | .filter ft => filterImageChecks ft o s

section kinds
variable {k : WalkKind} {bpp rb n : Nat} {prior src : List Byte} {ps rest : List (Nat × Nat)}

theorem WalkKind.takenAll_cons : k.takenAll ((rb, n) :: ps) = n * k.taken rb + k.takenAll ps := by
  cases k <;> rfl

theorem WalkKind.madeAll_cons : k.madeAll ((rb, n) :: ps) = n * k.made rb + k.madeAll ps := by
  cases k <;> rfl

theorem WalkKind.imageOut_cons :
    k.imageOut bpp ((rb, n) :: ps) src
      = k.passOut bpp rb n (zeros rb) src ++ k.imageOut bpp ps (src.drop (n * k.taken rb)) := by
  cases k <;> rfl

theorem WalkKind.passOut_zero : k.passOut bpp rb 0 prior src = [] := by
  cases k <;> rfl

/-- A pass is its first scanline and the pass after it, whose prior row is the row just done (R208, R209). -/
theorem WalkKind.passOut_succ :
    let scan := src.take (k.taken rb)
    let out := k.scanOut bpp prior scan
    k.passOut bpp rb (n + 1) prior src
      = out ++ k.passOut bpp rb n (k.rawRow scan out) (src.drop (k.taken rb)) := by
  cases k with
  | filter ft => rfl
  | unfilter =>
    have hbyte : byteAt (src.take (1 + rb)) 0 = byteAt src 0 := by
      rw [Nat.add_comm]
      cases src <;> rfl
    have hrow : (src.take (1 + rb)).drop 1 = (src.drop 1).take rb := by
      rw [List.drop_take, Nat.add_sub_cancel_left]
    simp only [WalkKind.passOut, unfilterPass, WalkKind.scanOut, WalkKind.scanType, WalkKind.written, WalkKind.taken,
      WalkKind.rawRow, hbyte, hrow]

end kinds

/-! ### What is left of a walk -/

/-- The bytes a walk has still to write: `n` scanlines of the pass in progress and the passes after it. -/
def WalkKind.remaining (k : WalkKind) (bpp rb n : Nat) (prior : List Byte) (rest : List (Nat × Nat)) (src : List Byte) :
    List Byte :=
  k.passOut bpp rb n prior src ++ k.imageOut bpp rest (src.drop (n * k.taken rb))

/-- The scanlines still to do lie in the memory, none is written over before it is read, and in a filtered stream every
type byte is one. -/
structure WalkReady (s : State) (k : WalkKind) (src dst : Nat) (ps : List (Nat × Nat)) : Prop where
  srcFits : (Range.mk src (k.takenAll ps)).Fits s.memSize
  dstFits : (Range.mk dst (k.madeAll ps)).Fits s.memSize
  apart : (Range.mk src (k.takenAll ps)).Apart (Range.mk dst (k.madeAll ps))
  types : k = .unfilter → ∀ so ∈ typeOffsets ps 0, (filterTypeOf (s.readByte (src + so))).isSome = true

theorem typeOffsets_add (ps : List (Nat × Nat)) (a so : Nat) :
    typeOffsets ps (a + so) = (typeOffsets ps so).map (a + ·) := by
  induction ps generalizing so with
  | nil => rfl
  | cons p ps ih =>
    simp only [typeOffsets, List.map_append, List.map_map, Nat.add_assoc, ih]
    rfl

/-- The type bytes of a pass are its first one and those of the pass after its first scanline. -/
theorem typeOffsets_succ (rb n : Nat) (rest : List (Nat × Nat)) :
    typeOffsets ((rb, n + 1) :: rest) 0 = 0 :: (typeOffsets ((rb, n) :: rest) 0).map (1 + rb + ·) := by
  have hrest : 0 + (n + 1) * (1 + rb) = 1 + rb + (0 + n * (1 + rb)) := by ring
  rw [typeOffsets, typeOffsets, hrest, typeOffsets_add, List.range_succ_eq_map, List.map_append]
  simp only [List.map_cons, List.map_map, Nat.zero_mul, Nat.add_zero, List.cons_append]
  congr 2
  refine List.map_congr_left fun y _ => ?_
  simp only [Function.comp_apply, Nat.succ_eq_add_one]
  ring

theorem lt_filteredBytes_of_mem_typeOffsets {ps : List (Nat × Nat)} {a so : Nat} (h : so ∈ typeOffsets ps a) :
    so < a + filteredBytes ps := by
  induction ps generalizing a with
  | nil => cases h
  | cons p ps ih =>
    obtain ⟨rb, n⟩ := p
    rw [filteredBytes_cons]
    rcases List.mem_append.mp h with h | h
    · obtain ⟨y, hy, rfl⟩ := List.mem_map.mp h
      have hy := List.mem_range.mp hy
      have : (y + 1) * (1 + rb) ≤ n * (1 + rb) := Nat.mul_le_mul_right _ hy
      rw [Nat.succ_mul] at this
      omega
    · have := ih h
      omega

/-- Writing on where the last write ended is one write. -/
theorem Memory.writeBytes_append (m : Memory) (a : Nat) (xs ys : List Byte) :
    Memory.writeBytes (Memory.writeBytes m a xs) (a + xs.length) ys = Memory.writeBytes m a (xs ++ ys) := by
  induction xs generalizing m a with
  | nil => rfl
  | cons x xs ih =>
    rw [List.length_cons, Nat.add_comm xs.length, ← Nat.add_assoc]
    exact ih (Memory.write m a x) (a + 1)

/-- A walk that has written `bs` at `b` and completes, with the results of its command. -/
def State.walkEnd (s : State) (k : WalkKind) (b : Nat) (bs : List Byte) : State :=
  ((s.memWrite b bs).walkResults k).succeed

theorem State.walkEnd_withRow (s : State) (k : WalkKind) (b : Nat) (bs : List Byte) (row : Option RowWalk) :
    State.walkEnd { s with row := row } k b bs = s.walkEnd k b bs := by
  cases k <;> rfl

/-- A walk that goes on after a write ends as one that writes all at once. -/
theorem State.walkEnd_append (s : State) (k : WalkKind) (b : Nat) (xs ys : List Byte) (row : Option RowWalk) :
    State.walkEnd { s.memWrite b xs with row := row } k (b + xs.length) ys = s.walkEnd k b (xs ++ ys) := by
  have hwrite : (s.memWrite b xs).memWrite (b + xs.length) ys = s.memWrite b (xs ++ ys) := by
    simp only [State.memWrite, Memory.writeBytes_append]
  rw [State.walkEnd_withRow, State.walkEnd, hwrite, State.walkEnd]

section walk
variable {s : State} {l : Latched} {k : WalkKind} {bpp a b rb n : Nat} {prior : List Byte} {rest : List (Nat × Nat)}

theorem WalkKind.takenAll_succ : k.takenAll ((rb, n + 1) :: rest) = k.taken rb + k.takenAll ((rb, n) :: rest) := by
  rw [WalkKind.takenAll_cons, WalkKind.takenAll_cons]
  ring

theorem WalkKind.madeAll_succ : k.madeAll ((rb, n + 1) :: rest) = k.made rb + k.madeAll ((rb, n) :: rest) := by
  rw [WalkKind.madeAll_cons, WalkKind.madeAll_cons]
  ring

theorem WalkKind.remaining_zero (src : List Byte) : k.remaining bpp rb 0 prior rest src = k.imageOut bpp rest src := by
  rw [WalkKind.remaining, WalkKind.passOut_zero, List.nil_append, Nat.zero_mul, List.drop_zero]

theorem WalkKind.imageOut_eq_remaining (src : List Byte) :
    k.imageOut bpp ((rb, n) :: rest) src = k.remaining bpp rb n (zeros rb) rest src :=
  WalkKind.imageOut_cons

theorem WalkKind.remaining_succ (src : List Byte) :
    let scan := src.take (k.taken rb)
    let out := k.scanOut bpp prior scan
    k.remaining bpp rb (n + 1) prior rest src
      = out ++ k.remaining bpp rb n (k.rawRow scan out) rest (src.drop (k.taken rb)) := by
  intro scan out
  have hdrop : (src.drop (k.taken rb)).drop (n * k.taken rb) = src.drop ((n + 1) * k.taken rb) := by
    rw [List.drop_drop]
    congr 1
    ring
  rw [WalkKind.remaining, WalkKind.remaining, WalkKind.passOut_succ, List.append_assoc, hdrop]

/-! ### One move of the walk -/

/-- What a write of `out` at `b` leaves for the source bytes after the scanline in progress: themselves. -/
theorem WalkReady.readByte_next (h : WalkReady s k a b ((rb, n + 1) :: rest)) {out : List Byte}
    (hout : out.length = k.made rb) (row : Option RowWalk) {j : Nat} (hj : j < k.takenAll ((rb, n) :: rest)) :
    State.readByte { s.memWrite b out with row := row } (a + k.taken rb + j) = s.readByte (a + k.taken rb + j) := by
  have hapart := h.apart
  simp only [Range.Apart, WalkKind.takenAll_succ, WalkKind.madeAll_succ] at hapart
  exact State.readByte_memWrite_outside (s := s) (by omega)

theorem WalkReady.memRead_next (h : WalkReady s k a b ((rb, n + 1) :: rest)) {out : List Byte}
    (hout : out.length = k.made rb) (row : Option RowWalk) :
    State.memRead { s.memWrite b out with row := row } (a + k.taken rb) (k.takenAll ((rb, n) :: rest))
      = (s.memRead a (k.takenAll ((rb, n + 1) :: rest))).drop (k.taken rb) := by
  rw [WalkKind.takenAll_succ, State.memRead_append, List.drop_left' (State.memRead_length ..)]
  exact State.memRead_congr fun j hj => h.readByte_next hout row hj

/-- After a scanline, what is left of the walk is ready. -/
theorem WalkReady.succ (h : WalkReady s k a b ((rb, n + 1) :: rest)) {out : List Byte} (hout : out.length = k.made rb)
    (row : Option RowWalk) :
    WalkReady { s.memWrite b out with row := row } k (a + k.taken rb) (b + k.made rb) ((rb, n) :: rest) := by
  obtain ⟨hsrc, hdst, hapart, htypes⟩ := id h
  simp only [Range.Fits, Range.Apart, WalkKind.takenAll_succ, WalkKind.madeAll_succ] at hsrc hdst hapart
  refine ⟨?_, ?_, ?_, fun hk so hso => ?_⟩
  · simp only [Range.Fits, State.memWrite_memSize]; omega
  · simp only [Range.Fits, State.memWrite_memSize]; omega
  · simp only [Range.Apart]; omega
  · subst hk
    have hlt : so < WalkKind.unfilter.takenAll ((rb, n) :: rest) := by
      simpa [WalkKind.takenAll] using lt_filteredBytes_of_mem_typeOffsets hso
    rw [h.readByte_next hout row hlt, Nat.add_assoc]
    refine htypes rfl _ ?_
    rw [typeOffsets_succ]
    exact List.mem_cons_of_mem _ (List.mem_map_of_mem hso)

theorem WalkReady.withRow {ps : List (Nat × Nat)} (h : WalkReady s k a b ps) (row : Option RowWalk) :
    WalkReady { s with row := row } k a b ps :=
  ⟨h.srcFits, h.dstFits, h.apart, h.types⟩

/-- A pass without a scanline asks for nothing. -/
theorem WalkReady.zero (h : WalkReady s k a b ((rb, 0) :: rest)) : WalkReady s k a b rest := by
  obtain ⟨hsrc, hdst, hapart, htypes⟩ := h
  simp only [WalkKind.takenAll_cons, WalkKind.madeAll_cons, Nat.zero_mul, Nat.zero_add] at hsrc hdst hapart
  exact ⟨hsrc, hdst, hapart, fun hk so hso => htypes hk so (by simpa [typeOffsets] using hso)⟩

/-- The engine's move at a scanline runs the filter type of the scanline. -/
theorem scanlineMove_eq {w : RowWalk} (htype : w.kind = .unfilter → (filterTypeOf (s.readByte w.src)).isSome = true) :
    s.scanlineMove w
      = filterScanline (w.kind.scanType w.bpp w.prior (s.memRead w.src (w.kind.taken w.rb))) s := by
  obtain ⟨kind, bpp, a, b, rb, n, prior, rest⟩ := w
  cases kind with
  | filter ft => exact exec_filterInstr _ s
  | unfilter =>
    obtain ⟨ty, hty⟩ := Option.isSome_iff_exists.mp (htype rfl)
    have hbyte : byteAt (s.memRead a (1 + rb)) 0 = s.readByte a := byteAt_memRead (by omega)
    simp only [State.scanlineMove, decodeFilterByte, hty, WalkKind.scanType, WalkKind.taken, hbyte, typeOfByte,
      Option.getD_some, exec_filterInstr]

/-- One engine move at a ready scanline writes it. -/
theorem engineMove_scanline {byRows : Bool} {m : Nat} (h : WalkReady s k a b ((rb, n + 1) :: rest))
    (hbusy : s.phase = .busy l) (hraced : s.raced = false) (hrow : s.row = some ⟨k, bpp, a, b, rb, m, prior, rest⟩) :
    let scan := s.memRead a (k.taken rb)
    let out := k.scanOut bpp prior scan
    s.engineMove byRows = .next ((s.memWrite b out).afterRow k
      (RowWalk.advance ⟨k, bpp, a, b, rb, m, prior, rest⟩ (k.taken rb) (k.made rb) (k.rawRow scan out))) := by
  obtain ⟨hsrc, hdst, -, htypes⟩ := h
  simp only [Range.Fits, WalkKind.takenAll_succ, WalkKind.madeAll_succ] at hsrc hdst
  have htype : k = .unfilter → (filterTypeOf (s.readByte a)).isSome = true := fun hk =>
    htypes hk 0 (by rw [typeOffsets_succ]; exact List.mem_cons_self ..)
  simp only [State.engineMove, hbusy, hraced, hrow, Bool.false_eq_true, if_false]
  rw [scanlineMove_eq htype]
  exact filterScanline_eq _ hrow (by simp only [Range.Fits]; omega) (by simp only [Range.Fits]; omega)

end walk

/-! ### The whole walk -/

/-- From every ready state at a walk of `n + 1` scanlines of `rb` row bytes and the passes `rest`, one engine move a
scanline writes all that is left of the image and completes the command. -/
def WalkCompletes (k : WalkKind) (bpp rb n : Nat) (rest : List (Nat × Nat)) : Prop :=
  ∀ (s : State) (l : Latched) (a b : Nat) (prior : List Byte), WalkReady s k a b ((rb, n + 1) :: rest) →
    s.phase = .busy l → s.raced = false → s.row = some ⟨k, bpp, a, b, rb, n + 1, prior, rest⟩ →
      s.rowMoves (scanlines ((rb, n + 1) :: rest)) = .next (s.walkEnd k b
        (k.remaining bpp rb (n + 1) prior rest (s.memRead a (k.takenAll ((rb, n + 1) :: rest)))))

section completes
variable {k : WalkKind} {bpp rb n : Nat} {rest : List (Nat × Nat)}

theorem scanlines_cons (rb n : Nat) (ps : List (Nat × Nat)) : scanlines ((rb, n) :: ps) = n + scanlines ps := rfl

theorem WalkKind.scanOut_length {s : State} {a : Nat} {prior : List Byte} :
    (k.scanOut bpp prior (s.memRead a (k.taken rb))).length = k.made rb :=
  WalkKind.written_length (State.memRead_length ..)

/-- What a walk has to write, read from the memory: its scanline in progress first. -/
theorem remaining_memRead (s : State) (a : Nat) (prior : List Byte) :
    let scan := s.memRead a (k.taken rb)
    let out := k.scanOut bpp prior scan
    let src := s.memRead a (k.takenAll ((rb, n + 1) :: rest))
    k.remaining bpp rb (n + 1) prior rest src
      = out ++ k.remaining bpp rb n (k.rawRow scan out) rest (src.drop (k.taken rb)) := by
  intro scan out src
  have hscan : src.take (k.taken rb) = scan := by
    simp only [src]
    rw [WalkKind.takenAll_succ, State.memRead_append, List.take_left' (State.memRead_length ..)]
  rw [WalkKind.remaining_succ, hscan]

/-- A walk whose next scanline is not the last of its pass. -/
theorem WalkCompletes.succ (h : WalkCompletes k bpp rb n rest) : WalkCompletes k bpp rb (n + 1) rest := by
  intro s l a b prior hready hbusy hraced hrow
  have hmove := engineMove_scanline (byRows := true) hready hbusy hraced hrow
  simp only [RowWalk.advance, show 1 < n + 1 + 1 by omega, if_true, Nat.add_sub_cancel, State.afterRow] at hmove
  have hnext := h _ l _ _ (k.rawRow (s.memRead a (k.taken rb)) (k.scanOut bpp prior (s.memRead a (k.taken rb))))
    (hready.succ (out := k.scanOut bpp prior (s.memRead a (k.taken rb))) WalkKind.scanOut_length _) hbusy hraced rfl
  have hcount : scanlines ((rb, n + 1 + 1) :: rest) = scanlines ((rb, n + 1) :: rest) + 1 := by
    rw [scanlines_cons, scanlines_cons]
    omega
  rw [hcount, State.rowMoves_succ hmove, hnext, hready.memRead_next WalkKind.scanOut_length, remaining_memRead,
    ← State.walkEnd_append, WalkKind.scanOut_length]

/-- A walk whose next scanline is the last of its pass and not of the image. -/
theorem WalkCompletes.nextPass {rb' : Nat} (h : WalkCompletes k bpp rb n rest) :
    WalkCompletes k bpp rb' 0 ((rb, n + 1) :: rest) := by
  intro s l a b prior hready hbusy hraced hrow
  have hmove := engineMove_scanline (byRows := true) hready hbusy hraced hrow
  simp only [RowWalk.advance, Nat.zero_add, lt_irrefl, if_false, State.afterRow] at hmove
  have hnext := h _ l _ _ (zeros rb)
    (hready.succ (out := k.scanOut bpp prior (s.memRead a (k.taken rb'))) WalkKind.scanOut_length _).zero
    hbusy hraced rfl
  have hcount : scanlines ((rb', 0 + 1) :: (rb, n + 1) :: rest) = scanlines ((rb, n + 1) :: rest) + 1 := by
    rw [scanlines_cons]
    omega
  have htaken : k.takenAll ((rb, n + 1) :: rest) = k.takenAll ((rb', 0) :: (rb, n + 1) :: rest) := by
    rw [WalkKind.takenAll_cons (rb := rb'), Nat.zero_mul, Nat.zero_add]
  rw [hcount, State.rowMoves_succ hmove, hnext, htaken, hready.memRead_next WalkKind.scanOut_length,
    remaining_memRead, WalkKind.remaining_zero, WalkKind.imageOut_eq_remaining,
    ← State.walkEnd_append, WalkKind.scanOut_length]

/-- A walk at its last scanline. -/
theorem walkCompletes_last : WalkCompletes k bpp rb 0 [] := by
  intro s l a b prior hready hbusy hraced hrow
  have hmove := engineMove_scanline (byRows := true) hready hbusy hraced hrow
  simp only [RowWalk.advance, Nat.zero_add, lt_irrefl, if_false, State.afterRow] at hmove
  have hnil (src : List Byte) : k.imageOut bpp [] src = [] := by cases k <;> rfl
  rw [remaining_memRead, WalkKind.remaining_zero, hnil, List.append_nil]
  exact State.rowMoves_succ (n := 0) hmove

theorem walkCompletes (hpos : ∀ p ∈ rest, p.2 ≠ 0) : WalkCompletes k bpp rb n rest := by
  induction rest generalizing rb n with
  | nil =>
    induction n with
    | zero => exact walkCompletes_last
    | succ n ih => exact ih.succ
  | cons p rest ihrest =>
    obtain ⟨rb', n'⟩ := p
    obtain ⟨m, rfl⟩ := Nat.exists_eq_succ_of_ne_zero (hpos _ (List.mem_cons_self ..))
    induction n with
    | zero => exact (ihrest fun p hp => hpos p (List.mem_cons_of_mem _ hp)).nextPass
    | succ n ih => exact ih.succ

end completes

/-! ### The image commands -/

section image
variable {s : State} {l : Latched} {k : WalkKind}

/-- An image command, in one form for both kinds. -/
theorem exec_image (hbusy : s.phase = .busy l) :
    exec k.instr s = conclude (k.checks l.regs s) s.failWith (.next (s.walkEnd k l.regs.arg1.toNat
      (k.imageOut l.regs.hdr.bpp l.regs.hdr.passRows
        (s.memRead l.regs.arg0.toNat (k.takenAll l.regs.hdr.passRows))))) := by
  have ho (bs : List Byte) : (s.memWrite l.regs.arg1.toNat bs).operands = l.regs := State.operands_busy hbusy
  cases k <;>
  · simp only [WalkKind.instr, exec, execUnfilterImage, execFilterImage, State.walkEnd, State.walkResults, ho,
      State.operands_busy hbusy]
    rfl

/-- A pass without a scanline is skipped (44_adam7.md R221). -/
theorem passRows_height (h : Header) : ∀ p ∈ h.passRows, p.2 ≠ 0 := by
  intro p hp
  obtain ⟨i, -, hi⟩ := List.mem_filterMap.mp hp
  simp only at hi
  split_ifs at hi with hd
  cases hi
  simp only [Bool.or_eq_true, decide_eq_true_eq, not_or] at hd
  exact hd.2

/-- The checks of an image command make its walk ready. -/
theorem walkReady_of_checks (h : allHold (k.checks l.regs s)) :
    WalkReady s k l.regs.arg0.toNat l.regs.arg1.toNat l.regs.hdr.passRows := by
  cases k with
  | unfilter =>
    obtain ⟨hpre, htypes⟩ := allHold_append.mp h
    obtain ⟨hfit, hapart⟩ := allHold_rangeChecks.mp (allHold_append.mp hpre).2
    refine ⟨hfit _ (by simp [readSet, WalkKind.takenAll]), hfit _ (by simp [writeSet, WalkKind.madeAll]),
      hapart _ (List.mem_singleton.mpr rfl) _ (List.mem_singleton.mpr rfl), fun _ so hso => ?_⟩
    exact htypes _ (List.mem_map_of_mem hso)
  | filter ft =>
    obtain ⟨hfit, hapart⟩ := allHold_rangeChecks.mp (allHold_append.mp h).2
    exact ⟨hfit _ (by simp [readSet, WalkKind.takenAll]), hfit _ (by simp [writeSet, WalkKind.madeAll]),
      hapart _ (List.mem_singleton.mpr rfl) _ (List.mem_singleton.mpr rfl), nofun⟩

theorem rowMoves_idle (h : s.phase = .idle) (n : Nat) : s.rowMoves n = .next s := by
  induction n with
  | zero => rfl
  | succ n ih => rw [State.rowMoves_succ (engineMove_idle h), ih]

/-- The first move by scanlines of an image command. -/
theorem engineMove_begins (hbusy : s.phase = .busy l) (hraced : s.raced = false) (hrow : s.row = none)
    (hdec : decodeCommand l.word = .ok k.instr) :
    s.engineMove true = beginWalk (k.checks l.regs s) k (exec k.instr s) s := by
  simp only [State.engineMove, hbusy, hraced, hrow, hdec, Bool.false_eq_true, if_false, if_true]
  cases k <;> simp only [WalkKind.instr, beginByRows, State.operands_busy hbusy] <;> rfl

/-- The walk of an image command ends in the state of the command as one step, whatever that is. -/
theorem rowMoves_image {t : State} (hbusy : s.phase = .busy l) (hraced : s.raced = false) (hrow : s.row = none)
    (hdec : decodeCommand l.word = .ok k.instr) (ht : exec k.instr s = .next t) :
    s.rowMoves (1 + scanlines l.regs.hdr.passRows) = .next t := by
  have hfirst := engineMove_begins hbusy hraced hrow hdec
  rw [Nat.add_comm]
  cases hps : l.regs.hdr.passRows with
  | nil =>
    simp only [beginWalk, firstRow, State.operands_busy hbusy, hps] at hfirst
    exact State.rowMoves_succ (hfirst.trans ht)
  | cons p rest =>
    obtain ⟨rb, n⟩ := p
    simp only [beginWalk, firstRow, State.operands_busy hbusy, hps] at hfirst
    rw [exec_image hbusy] at ht
    rcases conclude_next ht with ⟨r, hr, rfl⟩ | ⟨hc, ht⟩
    · rw [conclude_fail hr] at hfirst
      rw [State.rowMoves_succ hfirst, rowMoves_idle rfl]
    · rw [conclude_pass hc] at hfirst
      rw [State.rowMoves_succ hfirst, ← ht]
      have hpos := passRows_height l.regs.hdr
      have hready := walkReady_of_checks hc
      rw [hps] at hpos hready
      obtain ⟨m, rfl⟩ := Nat.exists_eq_succ_of_ne_zero (hpos _ (List.mem_cons_self ..))
      have hwalk := walkCompletes (fun p hp => hpos p (List.mem_cons_of_mem _ hp)) _ l _ _ (zeros rb)
        (hready.withRow (some ⟨k, l.regs.hdr.bpp, _, _, rb, m + 1, zeros rb, rest⟩)) hbusy hraced rfl
      rw [hps, WalkKind.imageOut_eq_remaining]
      exact hwalk.trans (congrArg _ (State.walkEnd_withRow ..))

end image

/-- Settles O59: the image command's two forms, one walk. -/
theorem scanlinesRefineTheCommand : Obligations.ScanlinesRefineTheCommand := by
  intro s t l i hbusy hraced hrow hdec himage hmove
  have hexec : exec i s = .next t := by
    simpa only [State.engineMove, hbusy, hraced, hrow, hdec, Bool.false_eq_true, if_false] using hmove
  obtain rfl | ⟨ft, rfl⟩ := himage
  · exact rowMoves_image (k := .unfilter) hbusy hraced hrow hdec hexec
  · exact rowMoves_image (k := .filter ft) hbusy hraced hrow hdec hexec

end Sys2Proof.Machine
end

section
/-!
PROOFS. The host's ports (20_memory.md R60, R69, R73) and the completion of a raced command (R73).
-/

namespace Sys2Proof.Machine

/-! ### The host's ports -/

section ports
variable {s : State} {offset : BitVec 8} {width : AccessWidth}

/-- Any other width or alignment is no aligned 32-bit access (R69). -/
theorem accessAligned_eq_false (h : width ≠ .word ∨ offset.toNat % 4 ≠ 0) : accessAligned offset width = false := by
  rcases h with h | h
  · cases width with
    | word => exact absurd rfl h
    | byte | half => rfl
  · rw [accessAligned, beq_false_of_ne h, Bool.and_false]

theorem hostRegWrite_refused (h : accessAligned offset width = false) (v : Word) :
    s.hostRegWrite offset width v = .refused .registerAccessShape := by
  rw [State.hostRegWrite, h, if_neg Bool.false_ne_true]

theorem hostRegRead_refused (h : accessAligned offset width = false) :
    s.hostRegRead offset width = .refused .registerAccessShape := by
  rw [State.hostRegRead, h, if_neg Bool.false_ne_true]

/-- A byte just written reads as written. -/
theorem State.readByte_memWrite_byte (s : State) (a : Nat) (b : Byte) : (s.memWrite a [b]).readByte a = b :=
  State.readByte_memWrite_inside (k := 0) (bs := [b]) Nat.one_pos

/-- A byte other than the written one reads as before. -/
theorem State.readByte_memWrite_other (s : State) {a x : Nat} (h : x ≠ a) (b : Byte) :
    (s.memWrite a [b]).readByte x = s.readByte x :=
  State.readByte_memWrite_outside (by simp only [List.length_singleton]; omega)

end ports

/-- Settles O10: both ports look at the shape of the access first. -/
theorem oddAccessIsRefused : Obligations.OddAccessIsRefused := by
  intro s offset width v rest hshape
  have hodd := accessAligned_eq_false hshape
  exact ⟨fun hagenda => (step_host hagenda).trans (hostRegWrite_refused hodd v),
    fun hagenda => (step_host hagenda).trans (hostRegRead_refused hodd)⟩

/-- Settles O15: the event taken off, the port answers by where the address lies. -/
theorem hostByteAccess : Obligations.HostByteAccess := by
  intro s addr b rest
  refine ⟨fun hagenda => ?_, fun hagenda => ?_⟩
  · rw [step_host hagenda, State.hostMove, State.hostMemWrite]
    split_ifs with hin
    · exact ⟨_, rfl, rfl, State.readByte_memWrite_byte s addr.toNat b,
        fun a ha => State.readByte_memWrite_other s ha b⟩
    · rfl
  · have hrunning : State.runningWrites { s with agenda := rest } = s.runningWrites := rfl
    rw [step_host hagenda, State.hostMove, State.hostMemRead, hrunning]
    split_ifs <;> rfl

/-! ### A raced command -/

section raced
variable {s : State} {rs : List Range}

/-- Scrambling changes the memory and the counter of free values alone. -/
theorem State.scrambleAll_frame (s : State) (rs : List Range) :
    s.scrambleAll rs = { s with mem := (s.scrambleAll rs).mem, free := (s.scrambleAll rs).free } := by
  induction rs generalizing s with
  | nil => rfl
  | cons r rs ih => exact ih (s.scramble r)

@[simp] theorem State.scrambleAll_cmd : (s.scrambleAll rs).cmd = s.cmd := by
  rw [State.scrambleAll_frame]
@[simp] theorem State.scrambleAll_status : (s.scrambleAll rs).status = s.status := by
  rw [State.scrambleAll_frame]
@[simp] theorem State.scrambleAll_irqEn : (s.scrambleAll rs).irqEn = s.irqEn := by
  rw [State.scrambleAll_frame]
@[simp] theorem State.scrambleAll_regs : (s.scrambleAll rs).regs = s.regs := by
  rw [State.scrambleAll_frame]

/-- Scrambling leaves every byte outside the ranges alone. -/
theorem State.readByte_scrambleAll_outside {a : Nat} (h : inRanges rs a = false) :
    (s.scrambleAll rs).readByte a = s.readByte a := by
  induction rs generalizing s with
  | nil => rfl
  | cons r rs ih =>
    obtain ⟨hr, hrs⟩ : r.contains a = false ∧ inRanges rs a = false := Bool.or_eq_false_iff.mp h
    exact (ih (s := s.scramble r) hrs).trans (State.readByte_scramble_outside hr)

/-- A raced completion shows DONE and no error code, or ERR and one of R240 (log 10). -/
theorem State.racedCompletion_status (s : State) :
    ∃ ok e, s.racedCompletion.status
      = { s.status with done := ok, err := !ok, errCode := if ok then 0 else ErrCode.code e } :=
  ⟨_, _, by simp only [State.racedCompletion, State.scrambleAll_status]; rfl⟩

end raced

/-- Settles O16: the raced completion, field by field. -/
theorem racedCommandCompletes : Obligations.RacedCommandCompletes := by
  intro s l byRows hbusy hraced
  obtain ⟨ok, e, hstatus⟩ := s.racedCompletion_status
  refine ⟨_, engineMove_raced hbusy hraced, rfl, rfl, s.racedCompletion_complete.2.2, ?_, ?_, ?_, ?_⟩
  · cases ok <;> simp [hstatus, e.code_ne_zero]
  · cases ok <;> simp [hstatus]
  · simp [hstatus]
  · simp only [State.racedCompletion, OperandRegs.scrambled, State.toIdle_cmd, State.toIdle_irqEn,
      State.scrambleAll_cmd, State.scrambleAll_irqEn, State.scrambleAll_regs, true_and]
    exact fun a ha => State.readByte_scrambleAll_outside ha

end Sys2Proof.Machine
end

section
/-!
PROOFS. What the range checks raise (20_memory.md R63, R65): steps 7 and 8 of R112, said once for every command that
makes them with the code of R63 and R65 alone.
-/

namespace Sys2Proof.Machine

section checks
variable {cs ds pre post : List Check} {r : Raise} {f : Raise → State} {o : Host.Outcome State Fault Refusal}

/-- Checks that all raise the same error raise it when one of them fails. -/
theorem conclude_of_uniform (hr : ∀ c ∈ cs, c.orRaise = r) (h : ¬allHold cs) :
    conclude (cs ++ ds) f o = .next (f r) := by
  induction cs with
  | nil => exact absurd (by simp [allHold]) h
  | cons c cs ih =>
    obtain ⟨hc, hcs⟩ := List.forall_mem_cons.mp hr
    cases hh : c.holds with
    | true =>
      rw [List.cons_append, ← List.singleton_append, conclude_append (by simpa [allHold] using hh)]
      exact ih hcs fun hall => h (allHold_cons.mpr ⟨hh, hall⟩)
    | false => exact conclude_fail (by simp [firstFailure, hh, hc])

theorem boundsChecks_raise {size : Nat} {rs : List Range} : ∀ c ∈ boundsChecks size rs r, c.orRaise = r := by
  simp [boundsChecks]

theorem overlapChecks_raise {reads writes : List Range} : ∀ c ∈ overlapChecks reads writes r, c.orRaise = r := by
  simp only [overlapChecks, List.mem_flatMap, List.mem_map]
  rintro c ⟨w, -, x, -, rfl⟩
  rfl

/-- A range outside the memory raises E_BOUNDS, and otherwise an overlap E_OVERLAP. -/
abbrev RangesChecked (i : Instr) (o : OperandRegs) (s : State) (u : Host.Outcome State Fault Refusal) : Prop :=
  (¬RangesFit i o s → u = .next (s.failWith ⟨.bounds, 0, 0⟩))
    ∧ (RangesFit i o s → ¬RangesApart i o s → u = .next (s.failWith ⟨.overlap, 0, 0⟩))

section conclude
variable {i : Instr} {g : OperandRegs} {s : State}

/-- Once the earlier checks hold, the range checks decide. -/
theorem rangesChecked_conclude (hpre : allHold pre) :
    RangesChecked i g s (conclude (pre ++ rangeChecks i g s ++ post) s.failWith o) := by
  have hfit : allHold (boundsChecks s.memSize (readSet i g s ++ writeSet i g) (raise .bounds)) ↔ RangesFit i g s := by
    simp only [allHold_boundsChecks, Range.inBounds_iff]
  have hapart : allHold (overlapChecks (readSet i g s) (writeSet i g) (raise .overlap)) ↔ RangesApart i g s := by
    simp only [allHold_overlapChecks, Range.overlaps_eq_false_iff_apart]
  rw [List.append_assoc, conclude_append hpre, rangeChecks, List.append_assoc]
  refine ⟨fun h => ?_, fun h h' => ?_⟩
  · exact conclude_of_uniform boundsChecks_raise fun hall => h (hfit.mp hall)
  · rw [conclude_append (hfit.mpr h)]
    exact conclude_of_uniform overlapChecks_raise fun hall => h' (hapart.mp hall)

/-- So they do when they are the last checks. -/
theorem rangesChecked_conclude_last (hpre : allHold pre) :
    RangesChecked i g s (conclude (pre ++ rangeChecks i g s) s.failWith o) := by
  rw [← List.append_nil (pre ++ _)]
  exact rangesChecked_conclude hpre

end conclude

end checks

/-! ### The earlier checks -/

section earlier
variable {h : Header} {w : Nat}

/-- Steps 3 and 5 of the row filter commands (43_filter_engine.md R206, R207). -/
theorem allHold_filteredRowChecks (hfmt : h.fmtValid = true) (hlen : 1 + h.rowBytes w ≤ u32Max) :
    allHold [fmtCheck h, filteredRowFitsCheck h w] := by
  simpa [allHold, fmtCheck, filteredRowFitsCheck, Header.filteredRowFits] using ⟨hfmt, hlen⟩

/-- Steps 3 and 5 of UNPACK_ROW and PACK_ROW (42_bit_unpacker.md R177). -/
theorem allHold_rowChecks (hfmt : h.fmtValid = true) (hlen : 1 + h.rowBytes w ≤ u32Max)
    (hsamples : h.samples w * h.sampleWidth ≤ u32Max) : allHold [fmtCheck h, rowFitsCheck h w] := by
  simpa [allHold, fmtCheck, rowFitsCheck, Header.rowFits] using ⟨hfmt, hlen, hsamples⟩

/-- FT ≤ 5 is legal (30_encoding.md R83). -/
theorem ftCheck_holds {ft : BitVec 3} (hft : ft.toNat ≤ 5) : (ftCheck ft).holds = true := decide_eq_true hft

/-- An image whose filtered stream fits 32 bits has no row that does not (42_bit_unpacker.md R178). -/
theorem imageFits_of_filteredBytes (hle : filteredBytes h.passRows ≤ u32Max) : h.imageFits = true := by
  simp only [Header.imageFits, Bool.and_eq_true, decide_eq_true_eq, List.all_eq_true]
  refine ⟨hle, fun p hp => ?_⟩
  have hone : p.2 * (1 + p.1) ≤ filteredBytes h.passRows :=
    List.single_le_sum (fun _ _ => Nat.zero_le _) _ (List.mem_map_of_mem hp)
  exact ((Nat.le_mul_of_pos_left _ (Nat.pos_of_ne_zero (passRows_height h p hp))).trans hone).trans hle

/-- Steps 3, 5 and 6 of the image commands (43_filter_engine.md R208, R209). -/
theorem allHold_imageChecks {len want : Nat} (himage : h.imageValid = true) (hlen : filteredBytes h.passRows ≤ u32Max)
    (hdata : len = want) : allHold [imageCheck h, imageFitsCheck h, dataLengthCheck len want] := by
  simpa [allHold, imageCheck, imageFitsCheck, dataLengthCheck] using ⟨himage, imageFits_of_filteredBytes hlen, hdata⟩

end earlier

/-- Settles O41: the earlier checks hold, so the range checks decide. -/
theorem rangeErrors : Obligations.RangeErrors := by
  intro s l i hbusy o h hearlier
  have ho : s.operands = o := State.operands_busy hbusy
  change RangesChecked i o s (exec i s)
  cases i with
  | unfilterRow zp =>
    obtain ⟨hfmt, hlen⟩ := hearlier
    simp only [exec, execUnfilterRow, ho]
    exact rangesChecked_conclude (allHold_filteredRowChecks hfmt hlen)
  | filterRow ft zp =>
    obtain ⟨hft, hfmt, hlen⟩ := hearlier
    simp only [exec, execFilterRow, ho]
    exact rangesChecked_conclude (allHold_cons.mpr ⟨ftCheck_holds hft, allHold_filteredRowChecks hfmt hlen⟩)
  | unpackRow =>
    obtain ⟨hfmt, hlen, hsamples⟩ := hearlier
    simp only [exec, execUnpackRow, ho]
    exact rangesChecked_conclude_last (allHold_rowChecks hfmt hlen hsamples)
  | packRow =>
    obtain ⟨hfmt, hlen, hsamples⟩ := hearlier
    simp only [exec, execPackRow, ho]
    exact rangesChecked_conclude (allHold_rowChecks hfmt hlen hsamples)
  | unfilterImage =>
    obtain ⟨himage, hlen, hdata⟩ := hearlier
    simp only [exec, execUnfilterImage, unfilterImageChecks, ho]
    exact rangesChecked_conclude (allHold_imageChecks himage hlen hdata)
  | filterImage ft =>
    obtain ⟨hft, himage, hlen, hdata⟩ := hearlier
    simp only [exec, execFilterImage, filterImageChecks, ho]
    exact rangesChecked_conclude_last (allHold_cons.mpr ⟨ftCheck_holds hft, allHold_imageChecks himage hlen hdata⟩)
  | crcUpdate ci cf =>
    simp only [exec, execCrcUpdate, ho]
    exact rangesChecked_conclude_last (pre := []) nofun
  | _ => exact hearlier.elim

end Sys2Proof.Machine
end

section
/-!
PROOFS. What Accept takes (41_chunk_framer.md R133-R136), and EM_CHUNK when its checks hold (R152).
-/

namespace Sys2Proof.Machine

/-! ### Accept -/

section accept
variable {c : ChunkOrder} {q : Word} {t p : List Byte} {len : Nat}

theorem allHold_ite_nil {a : Prop} [Decidable a] {cs : List Check} :
    allHold (if a then cs else []) ↔ (a → allHold cs) := by
  split_ifs with h <;> simp [allHold, h]

/-- IhdrCheck (R134). -/
theorem allHold_ihdrChecks : allHold (ihdrChecks q t len p) ↔
    len = 13 ∧ beValue (p.take 4) ≠ 0 ∧ beValue ((p.drop 4).take 4) ≠ 0
      ∧ colorTypeLegal (byteAt p 9).toNat = true ∧ depthLegal (byteAt p 9).toNat (byteAt p 8).toNat = true
      ∧ byteAt p 10 = 0 ∧ byteAt p 11 = 0 ∧ (byteAt p 12 = 0 ∨ byteAt p 12 = 1) := by
  simp [ihdrChecks, allHold, BitVec.toNat_eq]

/-- PlteCheck (R135). -/
theorem plteCheck_holds : (plteCheck q t len).holds = true ↔ len ≠ 0 ∧ len % 3 = 0 ∧ len ≤ 768 := by
  simp [plteCheck, and_assoc]

/-- IendCheck (R136). -/
theorem iendCheck_holds : (iendCheck q t len).holds = true ↔ len = 0 := by
  simp [iendCheck]

/-- The checks of Accept hold exactly when the chunk may come next (R133). -/
theorem allHold_acceptChecks : allHold (acceptChecks c q t len p) ↔ c.Accepts t len p := by
  have hfirst : (c.ihdrSeen = true ∨ t = tIHDR) ∧ (t ≠ tIHDR ∨ c.ihdrSeen = false)
      ↔ (c.ihdrSeen = true ↔ t ≠ tIHDR) := by
    cases c.ihdrSeen <;> simp
  simp only [acceptChecks, allHold_append, allHold_cons, allHold_ite_nil, allHold_ihdrChecks, plteCheck_holds,
    iendCheck_holds, Bool.not_eq_true', Bool.or_eq_true, Bool.and_eq_false_iff, beq_iff_eq,
    beq_eq_false_iff_ne, ChunkOrder.Accepts, ← hfirst]
  grind

end accept

/-! ### EM_CHUNK -/

section emChunk
variable {s : State} {l : Latched} {o : OperandRegs}

/-- The checks of EM_CHUNK hold (R152). -/
theorem allHold_emChunkChecks (hstarted : o.em.started = true) (hsize : 12 + o.arg2.toNat ≤ u32Max)
    (hroom : 12 + o.arg2.toNat ≤ o.emLimit.toNat - o.emCursor.toNat) (hfit : RangesFit .emChunk o s)
    (hapart : RangesApart .emChunk o s)
    (haccepts : o.em.order.Accepts (bytesBE4 o.arg0) o.arg2.toNat (s.memRead o.arg1.toNat o.arg2.toNat)) :
    allHold (emChunkChecks o s) := by
  simp only [RangesFit, RangesApart, readSet, writeSet, List.mem_append, List.mem_singleton, or_imp, forall_and,
    forall_eq] at hfit hapart
  obtain ⟨hread, hwrite⟩ := hfit
  simp only [emChunkChecks, emitBounds, allHold_append, allHold_boundsChecks, allHold_overlapChecks, List.mem_singleton,
    forall_eq, Range.inBounds_iff, Range.overlaps_eq_false_iff_apart]
  refine ⟨⟨⟨⟨?_, hread⟩, hwrite⟩, hapart⟩, allHold_acceptChecks.mpr haccepts⟩
  simpa [allHold, emSequence, emCapacity, hstarted] using ⟨hsize, hroom⟩

/-- EM_CHUNK whose checks hold writes the chunk, its length field the operand (R91, R152). -/
theorem exec_emChunk_of_checks {t : List Byte} (hbusy : s.phase = .busy l) (ht : bytesBE4 l.regs.arg0 = t)
    (hchecks : allHold (emChunkChecks l.regs s)) :
    let o := l.regs
    let p := s.memRead o.arg1.toNat o.arg2.toNat
    let bs := bytesBE4 o.arg2 ++ t ++ p ++ bytesBE4 (crc32 (t ++ p))
    bs.length = 12 + o.arg2.toNat ∧ exec .emChunk s = .next (s.completed (Memory.writeBytes s.mem o.emCursor.toNat bs)
      { s.regs with
        em := { o.em with order := o.em.order.update t }
        emCursor := u32 (o.emCursor.toNat + (12 + o.arg2.toNat))
        hdr := headerAfter s.regs.hdr t p } (u32 (12 + o.arg2.toNat)) (crc32 (t ++ p)) 0 0) := by
  intro o p bs
  have hp : p.length = o.arg2.toNat := State.memRead_length ..
  have hbs : chunkBytes t p = bs := by rw [chunkBytes, hp, u32, BitVec.ofNat_toNat, BitVec.setWidth_eq]
  have hlength : bs.length = 12 + o.arg2.toNat := by
    rw [← hbs, chunkBytes_length (ht ▸ bytesBE4_length _), hp]
  refine ⟨hlength, ?_⟩
  simp only [exec, execEmChunk, State.operands_busy hbusy]
  rw [conclude_pass hchecks, emitChunk_completed, ht, hbs, hlength, hp]

end emChunk

/-- Settles O29: Accept takes the chunk, so every check holds, and the written bytes are the chunk's. -/
theorem chunkIsEmitted : Obligations.ChunkIsEmitted := by
  intro s l hbusy o at0 len big bit absorb t p crc hstarted hsize hroom hmem hfit hapart haccepts
  have hbig (v : Word) : bytesBE4 v = big v := bytesBE4_eq v
  have hchecks : allHold (emChunkChecks o s) :=
    allHold_emChunkChecks hstarted hsize (by omega) hfit hapart (hbig o.arg0 ▸ haccepts)
  have hcrc : crc32 (t ++ p) = crc := rfl
  obtain ⟨hlength, hexec⟩ := exec_emChunk_of_checks hbusy (hbig o.arg0) hchecks
  rw [hcrc, hbig, hbig] at hexec hlength
  exact ⟨_, hexec, by rw [Nat.add_assoc at0]; rfl, hlength ▸ memRead_completed_same,
    sameOutside_completed_of_length hlength⟩

end Sys2Proof.Machine
end

section
/-!
PROOFS. UNPACK_ROW (42_bit_unpacker.md R175, R176, R179): what a slot holds of its sample, and what a sample is of the
packed row; then the statement.
-/

namespace Sys2Proof.Machine

/-! ### Slots (R175) -/

section slots
variable {sw k v : Nat} {vs : List Nat}

theorem slotSample_cons_zero (hv : v < if sw = 1 then 2 ^ 8 else 2 ^ 16) :
    slotSample sw (slotBytes sw (v :: vs)) 0 = v := by
  split_ifs at hv with hsw
  · simpa [slotSample, slotBytes, sampleSlot, byteAt, hsw] using hv
  · simp [slotSample, slotBytes, sampleSlot, byteAt, hsw]
    omega

theorem slotSample_cons_succ : slotSample sw (slotBytes sw (v :: vs)) (k + 1) = slotSample sw (slotBytes sw vs) k := by
  by_cases hsw : sw = 1 <;> simp [slotSample, slotBytes, sampleSlot, byteAt, hsw, Nat.mul_add]

/-- Slot `k` of an unpacked row holds sample `k`. -/
theorem slotSample_slotBytes (hk : k < vs.length) (hv : ∀ v ∈ vs, v < if sw = 1 then 2 ^ 8 else 2 ^ 16) :
    slotSample sw (slotBytes sw vs) k = vs.getD k 0 := by
  induction vs generalizing k with
  | nil => exact absurd hk (Nat.not_lt_zero k)
  | cons v vs ih =>
    obtain ⟨hv, hvs⟩ := List.forall_mem_cons.mp hv
    cases k with
    | zero => exact slotSample_cons_zero hv
    | succ k => rw [slotSample_cons_succ, ih (Nat.lt_of_succ_lt_succ hk) hvs, List.getD_cons_succ]

/-- Slot `k` of the slot bytes `bs` that stand at address `a`, read byte by byte. -/
theorem readSlot_eq_slotSample {t : State} {h : Header} {a : Nat} {bs : List Byte}
    (hread : ∀ j < bs.length, t.readByte (a + j) = byteAt bs j) (hk : (k + 1) * h.sampleWidth ≤ bs.length) :
    (if h.bitDepth ≤ 8 then (t.readByte (a + k)).toNat
      else (t.readByte (a + 2 * k)).toNat * 256 + (t.readByte (a + (2 * k + 1))).toNat)
      = slotSample h.sampleWidth bs k := by
  unfold Header.sampleWidth at *
  split_ifs at * with hd
  · rw [hread k (by omega)]
    rfl
  · rw [hread (2 * k) (by omega), hread (2 * k + 1) (by omega)]
    rfl

end slots

/-! ### Samples (R176) -/

section samples
variable {s : State} {h : Header} {a d k n w : Nat}

/-- A sample of a legal depth `d` is below 2^d. -/
theorem sampleOf_lt (hd : d ≤ 8 ∨ d = 16) (row : List Byte) (k : Nat) : sampleOf d row k < 2 ^ d := by
  have hbyte (i : Nat) : (byteAt row i).toNat < 2 ^ 8 := (byteAt row i).isLt
  unfold sampleOf
  split_ifs with hlt heq
  · exact Nat.mod_lt _ (Nat.two_pow_pos d)
  · exact heq ▸ hbyte k
  · obtain rfl : d = 16 := by omega
    have := hbyte (2 * k)
    have := hbyte (2 * k + 1)
    omega

/-- Sample `k` of a packed row of depth `d`, the row given byte by byte (R176). -/
def packedSample (d : Nat) (row : Nat → Nat) (k : Nat) : Nat :=
  if d < 8 then (row (k * d / 8) / 2 ^ (8 - d - k * d % 8)) % 2 ^ d
  else if d = 8 then row k
  else row (2 * k) * 256 + row (2 * k + 1)

/-- A sample whose bits lie in the row is read from the row's bytes. -/
theorem sampleOf_memRead (hd : 0 < d) (hd' : d ≤ 8 ∨ d = 16) (hk : (k + 1) * d ≤ 8 * n) :
    sampleOf d (s.memRead a n) k = packedSample d (fun j => (s.readByte (a + j)).toNat) k := by
  have hk : k * d + d ≤ 8 * n := Nat.succ_mul k d ▸ hk
  unfold sampleOf packedSample
  split_ifs with hlt heq
  · simp only [byteAt_memRead (show k * d / 8 < n by omega), Nat.shiftRight_eq_div_pow]
  · rw [byteAt_memRead (by subst heq; omega)]
  · obtain rfl : d = 16 := by omega
    rw [byteAt_memRead (by omega), byteAt_memRead (by omega)]

/-- The bits of a row's samples lie in its bytes (R173, R174). -/
theorem samples_bits_le (h : Header) (w : Nat) : h.samples w * h.bitDepth ≤ 8 * h.rowBytes w := by
  have hbits : h.samples w * h.bitDepth = h.bitDepth * h.channels * w := by
    rw [Header.samples]
    ring
  rw [hbits, Header.rowBytes, ceilDiv]
  omega

/-- A sample fits its slot (R175). -/
theorem unpackSamples_lt (hd : h.bitDepth ≤ 8 ∨ h.bitDepth = 16) (row : List Byte) :
    ∀ v ∈ unpackSamples h.bitDepth n row, v < if h.sampleWidth = 1 then 2 ^ 8 else 2 ^ 16 := by
  intro v hv
  obtain ⟨k, -, rfl⟩ := List.mem_map.mp hv
  refine (sampleOf_lt hd row k).trans_le ?_
  rw [Header.sampleWidth]
  split_ifs <;> exact Nat.pow_le_pow_right Nat.two_pos (by omega)

/-- Slot `k` of the unpacked row holds sample `k` of the packed row in the memory. -/
theorem slotSample_unpackSamples (hfmt : h.fmtValid = true) (hk : k < h.samples w) :
    slotSample h.sampleWidth (slotBytes h.sampleWidth
        (unpackSamples h.bitDepth (h.samples w) (s.memRead a (h.rowBytes w)))) k
      = packedSample h.bitDepth (fun j => (s.readByte (a + j)).toNat) k := by
  have hdepth := depth_of_fmtValid hfmt
  have hd : h.bitDepth ≤ 8 ∨ h.bitDepth = 16 := by omega
  have hbits : (k + 1) * h.bitDepth ≤ 8 * h.rowBytes w :=
    (Nat.mul_le_mul_right _ hk).trans (samples_bits_le h w)
  calc _ = (unpackSamples h.bitDepth (h.samples w) (s.memRead a (h.rowBytes w))).getD k 0 :=
        slotSample_slotBytes (by rwa [unpackSamples_length]) (unpackSamples_lt hd _)
    _ = sampleOf h.bitDepth (s.memRead a (h.rowBytes w)) k := by
        simp [unpackSamples, List.getD_eq_getElem?_getD, hk]
    _ = _ := sampleOf_memRead (by omega) hd hbits

end samples

/-! ### UNPACK_ROW (R179) -/

/-- UNPACK_ROW whose checks hold writes the slots of the row's samples (R179). -/
theorem exec_unpackRow_of_checks {s : State} {l : Latched} (hbusy : s.phase = .busy l) :
    let o := l.regs
    let h := o.hdr
    let n := h.samples o.arg2.toNat
    let rb := h.rowBytes o.arg2.toNat
    h.fmtValid = true → 1 + rb ≤ u32Max → n * h.sampleWidth ≤ u32Max → RangesFit .unpackRow o s →
    RangesApart .unpackRow o s →
      exec .unpackRow s = .next (s.completed (Memory.writeBytes s.mem o.arg1.toNat
        (slotBytes h.sampleWidth (unpackSamples h.bitDepth n (s.memRead o.arg0.toNat rb)))) s.regs
        (u32 n) (u32 (n * h.sampleWidth)) 0 0) := by
  intro o h n rb hfmt hrow hsamples hfit hapart
  have hchecks : allHold ([fmtCheck h, rowFitsCheck h o.arg2.toNat] ++ rangeChecks .unpackRow o s) :=
    allHold_append.mpr ⟨allHold_rowChecks hfmt hrow hsamples, allHold_rangeChecks.mpr ⟨hfit, hapart⟩⟩
  simp only [exec, execUnpackRow, State.operands_busy hbusy]
  rw [conclude_pass hchecks, write_completed]

/-- Settles O20: slot `k` holds sample `k` of the row that was read, and the sample's bits lie in the row. -/
theorem unpackRowWrites : Obligations.UnpackRowWrites := by
  intro s l hbusy o h rb n sw d row sample hfmt hrow hsamples hfit hapart
  have hlength : (slotBytes sw (unpackSamples d n (s.memRead o.arg0.toNat rb))).length = n * sw := by
    rw [slotBytes_sampleWidth, unpackSamples_length]
  refine ⟨_, exec_unpackRow_of_checks hbusy hfmt hrow hsamples hfit hapart, rfl,
    sameOutside_completed_of_length hlength, fun k hk => ?_⟩
  have hslot : (k + 1) * sw ≤ n * sw := Nat.mul_le_mul_right sw hk
  exact (readSlot_eq_slotSample (fun j hj => readByte_completed_inside hj) (hlength ▸ hslot)).trans
    (slotSample_unpackSamples hfmt hk)

end Sys2Proof.Machine
end

section
/-!
PROOFS. The encoding of the command words and the filter-type bytes (30_encoding.md R80-R86, R92): the fields of a word,
the opcode map row by row, and the two directions of decoding.
-/

namespace Sys2Proof

/-! ### The fields of a command word (R80) -/

section fields
variable {op : Nat} {ft : BitVec 3} {zp ci cf : Bool}

theorem toNat_commandWord (hop : op < 0x100) : (commandWord op ft zp ci cf).toNat
    = op + ft.toNat * 0x100 + zp.toNat * 0x800 + ci.toNat * 0x1000 + cf.toNat * 0x2000 := by
  have := ft.isLt
  have := zp.toNat_le
  have := ci.toNat_le
  have := cf.toNat_le
  exact Nat.mod_eq_of_lt (by omega)

/-- A word with RSV = 0 is made of its fields. -/
theorem commandWord_fields {w : Word} (hrsv : wordRsv w = 0) :
    commandWord (wordOp w) (wordFt w) (wordZp w) (wordCi w) (wordCf w) = w := by
  have hrsv : w.toNat / 2 ^ 14 % 2 ^ 18 = 0 := by
    simpa [wordRsv, BitVec.toNat_eq, Nat.shiftRight_eq_div_pow] using hrsv
  have hop : wordOp w = w.toNat % 2 ^ 8 := by simp [wordOp]
  have hft : (wordFt w).toNat = w.toNat / 2 ^ 8 % 2 ^ 3 := by simp [wordFt, Nat.shiftRight_eq_div_pow]
  have hbit (k : Nat) : (w.getLsbD k).toNat = w.toNat / 2 ^ k % 2 := by
    rw [BitVec.getLsbD, Nat.toNat_testBit]
  refine BitVec.eq_of_toNat_eq ?_
  rw [toNat_commandWord (by omega), hft, hop, wordZp, wordCi, wordCf, hbit, hbit, hbit]
  have := w.isLt
  omega

end fields

/-! ### The opcode map (R81) -/

/-- The row of the opcode map allows these fields (R82, R83). -/
structure OpcodeRow.Allows (row : OpcodeRow) (ft : BitVec 3) (zp ci cf : Bool) : Prop where
  ft_eq_zero : row.mayFt = false → ft = 0
  zp_eq_false : row.mayZp = false → zp = false
  crc_eq_false : row.mayCrc = false → ci = false ∧ cf = false
  ft_legal : row.mayFt = true → ftLegal ft = true

/-- What decodes has RSV = 0 and a row of the opcode map that allows its fields (R82). -/
theorem decodeCommand_eq_ok {w : Word} {i : Instr} (h : decodeCommand w = .ok i) :
    wordRsv w = 0 ∧ ∃ row, opcodeRow (wordOp w) = some row
      ∧ row.Allows (wordFt w) (wordZp w) (wordCi w) (wordCf w)
      ∧ row.make (wordFt w) (wordZp w) (wordCi w) (wordCf w) = i := by
  simp only [decodeCommand] at h
  split_ifs at h with hrsv
  split at h
  · cases h
  · rename_i row hrow
    split_ifs at h with hset hft
    refine ⟨not_not.mp hrsv, row, hrow, ?_, Except.ok.inj h⟩
    simp only [Bool.or_eq_true, Bool.and_eq_true, decide_eq_true_eq, Bool.not_eq_true', not_or, not_and,
      Bool.not_eq_false] at hset hft
    obtain ⟨⟨hsetFt, hsetZp⟩, hsetCrc⟩ := hset
    constructor <;> grind

/-- Every row of the opcode map encodes as its opcode and its fields, and what it makes is legal (R82). -/
theorem opcodeRow_encode {op : Nat} {row : OpcodeRow} {ft : BitVec 3} {zp ci cf : Bool} (hrow : opcodeRow op = some row)
    (hallows : row.Allows ft zp ci cf) :
    (row.make ft zp ci cf).wellFormed = true ∧ encode (row.make ft zp ci cf) = .command (commandWord op ft zp ci cf) := by
  obtain ⟨hft, hzp, hcrc, hlegal⟩ := hallows
  unfold opcodeRow at hrow
  split at hrow <;> cases hrow <;>
    simp_all [OpcodeRow.plain, Instr.wellFormed, encode, plainWord]

/-! ### Decoding and encoding -/

/-- A legal instruction is decoded from its encoding: one word for most, and for the others one for each of their
fields' values. -/
theorem decode_encode {i : Instr} (h : i.wellFormed = true) : decode (encode i) = .ok i := by
  cases i with
  | unfilterRow zp => cases zp <;> rfl
  | filterRow ft zp => revert ft zp; decide
  | filterImage ft => revert ft; decide
  | crcUpdate ci cf => cases ci <;> cases cf <;> rfl
  | _ => rfl

theorem wellFormed_filterInstr (t : FilterType) : (filterInstr t).wellFormed = true := by
  cases t <;> rfl

theorem encode_filterInstr (t : FilterType) : encode (filterInstr t) = .filterByte t.code := by
  cases t <;> rfl

/-- Only a filter type's own code selects it (R92, R205). -/
theorem code_of_filterTypeOf {b : Byte} {t : FilterType} (h : filterTypeOf b = some t) : t.code = b := by
  unfold filterTypeOf at h
  split at h <;> cases h <;> exact BitVec.eq_of_toNat_eq (Eq.symm ‹_›)

theorem encode_of_decodeCommand {w : Word} {i : Instr} (h : decodeCommand w = .ok i) :
    i.wellFormed = true ∧ encode i = .command w := by
  obtain ⟨hrsv, row, hrow, hallows, rfl⟩ := decodeCommand_eq_ok h
  simpa only [commandWord_fields hrsv] using opcodeRow_encode hrow hallows

theorem encode_of_decodeFilterByte {b : Byte} {i : Instr} (h : decodeFilterByte b = .ok i) :
    i.wellFormed = true ∧ encode i = .filterByte b := by
  obtain ⟨t, ht, rfl⟩ := Machine.decodeFilterByte_eq_ok h
  exact ⟨wellFormed_filterInstr t, by rw [encode_filterInstr, code_of_filterTypeOf ht]⟩

/-- Settles O1: field by field in a command word, type by type in a filter-type byte. -/
theorem decodeEncodeAgree : Obligations.DecodeEncodeAgree := by
  refine ⟨fun i => decode_encode, fun e i h => ?_⟩
  cases e with
  | command w => exact encode_of_decodeCommand h
  | filterByte b => exact encode_of_decodeFilterByte h

/-! ### The legal words (R82) -/

section legal
variable {w : Word}

/-- A word is legal exactly when it is the encoding of a legal instruction. -/
theorem exists_decodeCommand_iff :
    (∃ i, decodeCommand w = .ok i) ↔ ∃ i : Instr, i.wellFormed = true ∧ encode i = .command w := by
  refine exists_congr fun i => ⟨encode_of_decodeCommand, fun ⟨hi, henc⟩ => ?_⟩
  simpa only [henc, decode] using decode_encode hi

theorem exists_decodeCommand_of_encode {i : Instr} {v : Word} (hi : i.wellFormed = true) (henc : encode i = .command v)
    (hw : w.toNat = v.toNat) : ∃ i, decodeCommand w = .ok i :=
  exists_decodeCommand_iff.mpr ⟨i, hi, BitVec.eq_of_toNat_eq hw ▸ henc⟩

/-- The words of the commands that may set no field, but for NOP and UNFILTER_IMAGE (R82). -/
def bareWords : List Word :=
  [0x08, 0x09, 0x0A, 0x0B, 0x10, 0x11, 0x12, 0x20, 0x21, 0x22, 0x28, 0x29, 0x2A, 0x2B, 0x2C]

theorem exists_decodeCommand_of_mem_bareWords (h : w ∈ bareWords) : ∃ i, decodeCommand w = .ok i := by
  have hall : bareWords.all (fun v => (decodeCommand v).isOk) = true := rfl
  have hok := List.all_eq_true.mp hall w h
  cases hdec : decodeCommand w with
  | ok i => exact ⟨i, rfl⟩
  | error r => simp [hdec, Except.isOk, Except.toBool] at hok

/-- A flag of the command word, given as a number. -/
theorem exists_toNat_eq_of_le_one {x : Nat} (h : x ≤ 1) : ∃ b : Bool, b.toNat = x := by
  rcases Nat.le_one_iff_eq_zero_or_eq_one.mp h with rfl | rfl
  · exact ⟨false, rfl⟩
  · exact ⟨true, rfl⟩

/-- An illegal word raises E_ILLEGAL_CMD(0) before anything else (R84, 40_command_issue.md R112). -/
theorem engineMove_illegal {s : Machine.State} {g : Machine.OperandRegs} {byRows : Bool}
    (hillegal : ¬∃ i, decodeCommand w = .ok i) (hbusy : s.phase = .busy ⟨w, g⟩) (hraced : s.raced = false)
    (hrow : s.row = none) : s.engineMove byRows = .next (s.failWith ⟨.illegalCmd, 0, 0⟩) := by
  cases hdec : decodeCommand w with
  | ok i => exact absurd ⟨i, hdec⟩ hillegal
  | error r => simp [Machine.State.engineMove, Machine.raise, hbusy, hraced, hrow, hdec]

end legal

/-- Settles O2: instruction by instruction, the legal words are the encodings. -/
theorem legalWordsExactly : Obligations.LegalWordsExactly := by
  intro w legal
  have hlegal : (∃ i, decodeCommand w = .ok i) ↔ legal := by
    constructor
    · intro h
      obtain ⟨i, hi, henc⟩ := exists_decodeCommand_iff.mp h
      have hbare (hmem : w ∈ bareWords) : legal := .inr (.inr (.inr (.inr (.inr (.inr (.inr hmem))))))
      cases i with
      | nop => exact .inl (Encoded.command.inj henc).symm
      | unfilterRow zp =>
        cases zp
        · exact .inr (.inl (Encoded.command.inj henc).symm)
        · exact .inr (.inr (.inl (Encoded.command.inj henc).symm))
      | unfilterImage => exact .inr (.inr (.inr (.inl (Encoded.command.inj henc).symm)))
      | filterRow ft zp =>
        obtain rfl := Encoded.command.inj henc
        exact .inr (.inr (.inr (.inr (.inl ⟨ft.toNat, zp.toNat, of_decide_eq_true hi, zp.toNat_le,
          toNat_commandWord (by decide)⟩))))
      | filterImage ft =>
        obtain rfl := Encoded.command.inj henc
        exact .inr (.inr (.inr (.inr (.inr (.inl ⟨ft.toNat, of_decide_eq_true hi, toNat_commandWord (by decide)⟩)))))
      | crcUpdate ci cf =>
        obtain rfl := Encoded.command.inj henc
        exact .inr (.inr (.inr (.inr (.inr (.inr (.inl ⟨ci.toNat, cf.toNat, ci.toNat_le, cf.toNat_le,
          toNat_commandWord (by decide)⟩))))))
      | filterTypeNone | filterTypeSub | filterTypeUp | filterTypeAverage | filterTypePaeth => nomatch henc
      | _ =>
        obtain rfl := Encoded.command.inj henc
        exact hbare (by decide)
    · rintro (rfl | rfl | rfl | rfl | ⟨f, x, hf, hx, hw⟩ | ⟨f, hf, hw⟩ | ⟨x, y, hx, hy, hw⟩ | hmem)
      · exact ⟨.nop, rfl⟩
      · exact ⟨.unfilterRow false, rfl⟩
      · exact ⟨.unfilterRow true, rfl⟩
      · exact ⟨.unfilterImage, rfl⟩
      · obtain ⟨zp, rfl⟩ := exists_toNat_eq_of_le_one hx
        exact exists_decodeCommand_of_encode (i := .filterRow (.ofNatLT f (by omega)) zp) (decide_eq_true hf) rfl
          (by rw [hw, toNat_commandWord (by decide)]; rfl)
      · exact exists_decodeCommand_of_encode (i := .filterImage (.ofNatLT f (by omega))) (decide_eq_true hf) rfl
          (by rw [hw, toNat_commandWord (by decide)]; rfl)
      · obtain ⟨ci, rfl⟩ := exists_toNat_eq_of_le_one hx
        obtain ⟨cf, rfl⟩ := exists_toNat_eq_of_le_one hy
        exact exists_decodeCommand_of_encode (i := .crcUpdate ci cf) rfl rfl
          (by rw [hw, toNat_commandWord (by decide)]; rfl)
      · exact exists_decodeCommand_of_mem_bareWords hmem
  exact ⟨hlegal, fun h s g byRows => engineMove_illegal (mt hlegal.mp h)⟩

/-- Settles O3: each word is evaluated. -/
theorem writtenWordsDecode : Obligations.WrittenWordsDecode :=
  ⟨rfl, rfl, rfl, rfl, rfl, rfl, rfl, rfl, rfl, rfl, rfl⟩

end Sys2Proof
end

section
/-!
PROOFS. The header predicates and the commands that check them (30_encoding.md R93-R96), GEOM (42_bit_unpacker.md R177),
and the image commands as one step (43_filter_engine.md R208, R209).
-/

namespace Sys2Proof.Machine

/-! ### The header predicates -/

section header
variable {h : Header}

/-- The table of color types and bit depths (R94). -/
theorem colorTypeLegal_and_depthLegal {ct d : Nat} : (colorTypeLegal ct && depthLegal ct d) = true ↔
    (ct, d) ∈ [(0, 1), (0, 2), (0, 4), (0, 8), (0, 16), (2, 8), (2, 16), (3, 1), (3, 2), (3, 4), (3, 8), (4, 8), (4, 16),
      (6, 8), (6, 16)] := by
  unfold depthLegal
  split <;> simp_all [colorTypeLegal]

/-- HdrImageValid (R96). -/
theorem Header.imageValid_iff : h.imageValid = true ↔
    h.fmtValid = true ∧ 1 ≤ h.width.toNat ∧ 1 ≤ h.height.toNat ∧ (h.interlace = 0 ∨ h.interlace = 1) := by
  simp [Header.imageValid, and_assoc]

/-- The channels of each color type, and none for a value that is no color type (R93). -/
theorem channelsOf_eq_getD (ct : Nat) : channelsOf ct = [1, 0, 3, 1, 2, 0, 4].getD ct 0 := by
  match ct with
  | 0 | 1 | 2 | 3 | 4 | 5 | 6 => rfl
  | _ + 7 => rfl

/-- An illegal format raises E_HEADER as the first check. -/
theorem conclude_fmtCheck_fails {cs : List Check} {f : Raise → State} {o : Host.Outcome State Fault Refusal}
    (hfmt : ¬h.fmtValid = true) : conclude (fmtCheck h :: cs) f o = .next (f (raise .header)) :=
  conclude_fail (by simp [firstFailure, fmtCheck, hfmt])

/-- An illegal image header raises E_HEADER as the first check. -/
theorem conclude_imageCheck_fails {cs : List Check} {f : Raise → State} {o : Host.Outcome State Fault Refusal}
    (himage : ¬h.imageValid = true) : conclude (imageCheck h :: cs) f o = .next (f (raise .header)) :=
  conclude_fail (by simp [firstFailure, imageCheck, himage])

/-- A legal FT field is no error. -/
theorem conclude_ftCheck {ft : BitVec 3} {cs : List Check} {f : Raise → State} {o : Host.Outcome State Fault Refusal}
    (hft : ft.toNat ≤ 5) : conclude (ftCheck ft :: cs) f o = conclude cs f o :=
  conclude_append (xs := [ftCheck ft]) (by simpa [allHold] using ftCheck_holds hft)

end header

/-- Settles O39: the header's check is the first one, but for a legal FT field. -/
theorem headerErrors : Obligations.HeaderErrors := by
  intro s l zp ft hbusy hft h formatLegal imageLegal
  have hh : s.operands.hdr = h := by rw [State.operands_busy hbusy]
  have hformat : h.fmtValid = true ↔ formatLegal := colorTypeLegal_and_depthLegal
  have himage : h.imageValid = true ↔ imageLegal := by rw [Header.imageValid_iff, hformat]
  refine ⟨hformat, himage, fun hbad => ?_, fun hbad => ?_⟩
  · have hbad : ¬s.operands.hdr.fmtValid = true := by rwa [hh, hformat]
    simp only [List.forall_mem_cons]
    exact ⟨conclude_fmtCheck_fails hbad, conclude_fmtCheck_fails hbad, conclude_fmtCheck_fails hbad,
      conclude_fmtCheck_fails hbad, (conclude_ftCheck hft).trans (conclude_fmtCheck_fails hbad), nofun⟩
  · have hbad : ¬s.operands.hdr.imageValid = true := by rwa [hh, himage]
    simp only [List.forall_mem_cons]
    exact ⟨conclude_imageCheck_fails hbad, conclude_imageCheck_fails hbad,
      (conclude_ftCheck hft).trans (conclude_imageCheck_fails hbad), nofun⟩

/-! ### GEOM -/

/-- Settles O18: both checks hold, and the results are R170-R173 on the table of R93. -/
theorem geomReports : Obligations.GeomReports := by
  intro s l hbusy h w ch rb hfmt hrow hsamples
  have hch : h.channels = ch := channelsOf_eq_getD h.colorType
  have hbits : h.bitsPerPixel = h.bitDepth * ch := by rw [Header.bitsPerPixel, hch]
  have hrb : h.rowBytes w = rb := by rw [Header.rowBytes, hch]; rfl
  have hn : h.samples w = w * ch := by rw [Header.samples, hch]
  have hchecks : allHold [fmtCheck h, rowFitsCheck h w] :=
    allHold_rowChecks hfmt (by rw [hrb]; exact hrow) (by rw [hn]; exact hsamples)
  simp only [exec, execGeom, State.operands_busy hbusy]
  rw [conclude_pass hchecks, hch, Header.bpp, hbits, hrb]
  rfl

/-! ### The image commands -/

section image
variable {s : State} {l : Latched} {k : WalkKind}

theorem WalkKind.imageOut_length {bpp : Nat} {ps : List (Nat × Nat)} {src : List Byte}
    (h : src.length = k.takenAll ps) : (k.imageOut bpp ps src).length = k.madeAll ps := by
  cases k with
  | unfilter => exact unfilterStream_length _ _ _ h.ge
  | filter ft => exact filterStream_length _ _ _ _ h.ge

/-- An image command whose checks hold writes the rows of the image and reports their bytes and scanlines. -/
theorem exec_image_of_checks (hbusy : s.phase = .busy l) (hchecks : allHold (k.checks l.regs s)) :
    let o := l.regs
    let ps := o.hdr.passRows
    let rows := k.imageOut o.hdr.bpp ps (s.memRead o.arg0.toNat (k.takenAll ps))
    ∃ t, exec k.instr s = .next t
      ∧ t = s.completed t.mem s.regs (u32 (k.madeAll ps)) (u32 (scanlines ps)) 0 0
      ∧ t.memRead o.arg1.toNat (k.madeAll ps) = rows
      ∧ SameOutside s t ⟨o.arg1.toNat, k.madeAll ps⟩ := by
  intro o ps rows
  have hlength : rows.length = k.madeAll ps := WalkKind.imageOut_length (State.memRead_length ..)
  have hmade : k.imageBytes o.hdr = k.madeAll ps := by cases k <;> rfl
  refine ⟨_, (exec_image hbusy).trans (conclude_pass hchecks), ?_, ?_, ?_⟩
  all_goals rw [State.walkEnd, walkResults_completed hbusy]
  · rw [hmade]; rfl
  · exact hlength ▸ memRead_completed_same
  · exact sameOutside_completed_of_length hlength

end image

theorem filterTypeOf_isSome {b : Byte} (h : b.toNat ≤ 4) : (filterTypeOf b).isSome = true := by
  simp only [filterTypeOf]
  interval_cases b.toNat <;> rfl

/-- Settles O35: every check holds, the type bytes' among them. -/
theorem imageIsReconstructed : Obligations.ImageIsReconstructed := by
  intro s l hbusy o ps himage hsize hlen hfit hapart htypes
  have hbytes : allHold ((typeOffsets ps 0).map fun so => typeByteCheck (s.readByte (o.arg0.toNat + so)) so) := by
    intro c hc
    obtain ⟨so, hso, rfl⟩ := List.mem_map.mp hc
    exact filterTypeOf_isSome (htypes so hso)
  exact exec_image_of_checks (k := .unfilter) hbusy (allHold_append.mpr
    ⟨allHold_append.mpr ⟨allHold_imageChecks himage hsize hlen, allHold_rangeChecks.mpr ⟨hfit, hapart⟩⟩, hbytes⟩)

/-- Settles O36: every check holds. -/
theorem imageIsFiltered : Obligations.ImageIsFiltered := by
  intro s l ft hbusy o ps hft himage hsize hlen hfit hapart
  exact exec_image_of_checks (k := .filter ft) hbusy (allHold_cons.mpr ⟨ftCheck_holds hft, allHold_append.mpr
    ⟨allHold_imageChecks himage hsize hlen, allHold_rangeChecks.mpr ⟨hfit, hapart⟩⟩⟩)

end Sys2Proof.Machine
end

section
/-!
PROOFS. FR_NEXT, EM_IHDR and EM_IEND when their checks hold (41_chunk_framer.md R139, R156, R158).
-/

namespace Sys2Proof.Machine

/-! ### Big-endian fields (00_scope.md R12) -/

theorem beValue_bytesBE4 (v : Word) : beValue (bytesBE4 v) = v.toNat := by
  have := v.isLt
  simp only [bytesBE4_eq, beValue, List.foldl_cons, List.foldl_nil, BitVec.toNat_ofNat]
  omega

theorem beValue_memRead_four (s : State) (a : Nat) : beValue (s.memRead a 4) = (s.readByte a).toNat * 2 ^ 24
    + (s.readByte (a + 1)).toNat * 2 ^ 16 + (s.readByte (a + 2)).toNat * 2 ^ 8 + (s.readByte (a + 3)).toNat := by
  have hread : s.memRead a 4 = [s.readByte a, s.readByte (a + 1), s.readByte (a + 2), s.readByte (a + 3)] := rfl
  simp only [hread, beValue, List.foldl_cons, List.foldl_nil]
  omega

theorem u32_toNat (v : Word) : u32 v.toNat = v := by
  rw [u32, BitVec.ofNat_toNat, BitVec.setWidth_eq]

/-! ### FR_NEXT (R139) -/

section frNext
variable {s : State} {l : Latched} {o : OperandRegs} {len : Nat}

/-- The checks of FR_NEXT hold on a whole chunk in the stream, its CRC intact, that Accept takes (R139). -/
theorem allHold_frNextChecks :
    let at0 := o.frCursor.toNat
    let t := s.memRead (at0 + 4) 4
    let p := s.memRead (at0 + 8) len
    s.chunkLength at0 = len → o.fr.sigOk = true → o.fr.fail = false → o.fr.done = false →
    o.frLimit.toNat ≤ s.memSize → at0 + 12 + len ≤ o.frLimit.toNat →
    beValue (s.memRead (at0 + 8 + len) 4) = (crc32 (t ++ p)).toNat → o.fr.order.Accepts t len p →
      allHold (frNextSequence o :: frNextBounds o s ++ frNextChecks o s) := by
  intro at0 t p hlen hsig hfail hdone hlimit hwhole hcrc haccepts
  obtain ⟨hend, -⟩ := id haccepts
  subst hlen
  refine allHold_append.mpr ⟨allHold_cons.mpr ⟨?_, ?_⟩, allHold_append.mpr ⟨?_, allHold_acceptChecks.mpr haccepts⟩⟩
  · simp [frNextSequence, hsig, hfail, hdone, hend]
  · refine allHold_boundsChecks.mpr ?_
    simp only [readSet, List.mem_singleton, forall_eq, Range.inBounds_iff]
    omega
  · have hmin : 12 + s.chunkLength at0 ≤ o.frLimit.toNat - at0 := by omega
    have hmatch : (crc32 (t ++ p) == u32 (beValue (s.memRead (at0 + 8 + s.chunkLength at0) 4))) = true := by
      rw [hcrc, u32_toNat]
      exact BEq.rfl
    have hroom : 12 ≤ o.frLimit.toNat - at0 := by omega
    simp only [allHold_cons, hend, decide_eq_true_eq]
    exact ⟨rfl, hroom, hmin, hmatch, nofun⟩

/-- FR_NEXT whose checks hold reports the chunk and moves on (R139, R141). -/
theorem exec_frNext_of_checks (hbusy : s.phase = .busy l)
    (hchecks : allHold (frNextSequence l.regs :: frNextBounds l.regs s ++ frNextChecks l.regs s)) :
    let o := l.regs
    let at0 := o.frCursor.toNat
    let t := s.memRead (at0 + 4) 4
    s.chunkLength at0 = len → exec .frNext s = .next (s.completed s.mem
      { s.regs with
        fr := { o.fr with order := o.fr.order.update t }
        frCursor := u32 (at0 + 12 + len)
        hdr := headerAfter s.regs.hdr t (s.memRead (at0 + 8) len) }
      (packType t) (u32 len) (u32 (at0 + 8)) (chunkKind t)) := by
  intro o at0 t hlen
  subst hlen
  simp only [exec, execFrNext, State.operands_busy hbusy]
  rw [conclude_pass hchecks]
  rfl

end frNext

/-- Settles O26: the four length bytes are the chunk's length, and every check holds. -/
theorem chunkIsParsed : Obligations.ChunkIsParsed := by
  intro s l hbusy o at0 b len t p kind hsig hfail hdone hlimit hwhole hcrc haccepts
  have hlen : s.chunkLength at0 = len := beValue_memRead_four s at0
  exact exec_frNext_of_checks hbusy
    (allHold_frNextChecks hlen hsig hfail hdone hlimit hwhole hcrc haccepts) hlen

/-! ### Emitting a chunk of a given type -/

/-- A completed command, given by the memory it leaves. -/
theorem eq_completed_mem (s : State) (m : Memory) (g : OperandRegs) (a b c d : Word) :
    s.completed m g a b c d = s.completed (s.completed m g a b c d).mem g a b c d := rfl

section emit
variable {s : State} {l : Latched} {o : OperandRegs} {c : ChunkOrder} {h : Header}

/-- The checks of EM_IHDR and EM_IEND hold when there is room for the chunk and Accept takes it (R156, R158). -/
theorem allHold_emitChecks {n len : Nat} {chunk q : Word} {t p : List Byte} (hstarted : o.em.started = true)
    (hroom : o.emCursor.toNat + n ≤ o.emLimit.toNat) (hmem : o.emCursor.toNat + n ≤ s.memSize)
    (haccepts : c.Accepts t len p) :
    allHold ([emSequence o, emCapacity o n chunk] ++ emitBounds o s n chunk ++ acceptChecks c q t len p) := by
  refine allHold_append.mpr ⟨allHold_append.mpr ⟨?_, ?_⟩, allHold_acceptChecks.mpr haccepts⟩
  · simpa [allHold, emSequence, emCapacity, hstarted] using Nat.le_sub_of_add_le' hroom
  · exact allHold_boundsChecks.mpr (by simpa [Range.inBounds_iff] using .inr hmem)

/-! ### EM_IHDR (R156) -/

/-- Accept takes the 'IHDR' of a legal header as the first chunk (R133, R134). -/
theorem accepts_headerPayload (hend : c.iendSeen = false) (hihdr : c.ihdrSeen = false) (himage : h.imageValid = true)
    (hcompression : h.compression = 0) (hfilter : h.filterMethod = 0) : c.Accepts tIHDR 13 (headerPayload h) := by
  obtain ⟨hfmt, hwidth, hheight, hinterlace⟩ := Header.imageValid_iff.mp himage
  obtain ⟨hcolor, hdepth⟩ := Bool.and_eq_true_iff.mp hfmt
  have hw : beValue ((headerPayload h).take 4) = h.width.toNat := beValue_bytesBE4 h.width
  have hh : beValue (((headerPayload h).drop 4).take 4) = h.height.toNat := beValue_bytesBE4 h.height
  refine ⟨hend, by simp [hihdr], nofun, nofun, nofun, fun _ => ⟨rfl, by omega, by omega, hcolor, hdepth,
    BitVec.eq_of_toNat_eq hcompression, BitVec.eq_of_toNat_eq hfilter, ?_⟩⟩
  exact hinterlace.imp BitVec.eq_of_toNat_eq BitVec.eq_of_toNat_eq

/-- The header registers are read back from their own payload (R97). -/
theorem loadHeader_headerPayload (h : Header) : loadHeader (headerPayload h) = h := by
  have hw : u32 (beValue ((headerPayload h).take 4)) = h.width :=
    (congrArg u32 (beValue_bytesBE4 h.width)).trans (u32_toNat h.width)
  have hh : u32 (beValue (((headerPayload h).drop 4).take 4)) = h.height :=
    (congrArg u32 (beValue_bytesBE4 h.height)).trans (u32_toNat h.height)
  have hfmt : h.fmt.extractLsb' 24 8 ++ h.fmt.extractLsb' 16 8 ++ h.fmt.extractLsb' 8 8 ++ h.fmt.extractLsb' 0 8
      = h.fmt := by
    rw [BitVec.extractLsb'_append_extractLsb'_eq_extractLsb' (start₂ := 24) (start₁ := 16) rfl,
      BitVec.extractLsb'_append_extractLsb'_eq_extractLsb' (start₂ := 16) (start₁ := 8) rfl,
      BitVec.extractLsb'_append_extractLsb'_eq_extractLsb' (start₂ := 8) (start₁ := 0) rfl]
    exact BitVec.extractLsb'_eq_self
  rw [loadHeader, hw, hh]
  exact congrArg (Header.mk h.width h.height · h.il) hfmt

end emit

/-- EM_IHDR whose checks hold writes the chunk of the header registers and keeps them (R156). -/
theorem exec_emIhdr_of_checks {s : State} {l : Latched} {p : List Byte} (hbusy : s.phase = .busy l)
    (hp : headerPayload l.regs.hdr = p) (hchecks : allHold (emIhdrChecks l.regs s)) :
    let o := l.regs
    let bs := [0, 0, 0, 13] ++ tIHDR ++ p ++ bytesBE4 (crc32 (tIHDR ++ p))
    bs.length = 25 ∧ exec .emIhdr s = .next (s.completed (Memory.writeBytes s.mem o.emCursor.toNat bs)
      { s.regs with
        em := { o.em with order := o.em.order.update tIHDR }
        emCursor := u32 (o.emCursor.toNat + 25)
        hdr := o.hdr } 25 (crc32 (tIHDR ++ p)) 0 0) := by
  intro o bs
  have hpayload : p.length = 13 := hp ▸ headerPayload_length o.hdr
  have hbs : chunkBytes tIHDR p = bs := by
    rw [chunkBytes, hpayload]
    rfl
  have hlength : bs.length = 25 := by rw [← hbs, chunkBytes_length rfl, hpayload]
  have hhdr : headerAfter s.regs.hdr tIHDR p = o.hdr := hp ▸ loadHeader_headerPayload o.hdr
  refine ⟨hlength, ?_⟩
  simp only [exec, execEmIhdr, State.operands_busy hbusy]
  rw [conclude_pass hchecks, emitChunk_completed, hp, hbs, hlength, hhdr, hpayload]
  rfl

/-- Settles O30: Accept takes the chunk, so every check holds, and the written bytes are the chunk's. -/
theorem headerIsEmitted : Obligations.HeaderIsEmitted := by
  intro s l hbusy o h at0 p hstarted hroom hmem hend hihdr himage hcompression hfilter
  have hchecks : allHold (emIhdrChecks o s) := allHold_emitChecks hstarted hroom hmem
    (accepts_headerPayload hend hihdr himage hcompression hfilter)
  have hp : headerPayload h = p := rfl
  obtain ⟨hlength, hexec⟩ := exec_emIhdr_of_checks hbusy hp hchecks
  exact ⟨_, hexec, eq_completed_mem .., hlength ▸ memRead_completed_same, sameOutside_completed_of_length hlength⟩

/-! ### EM_IEND (R158) -/

/-- Accept takes an 'IEND' after the header and an IDAT run (R133, R136). -/
theorem accepts_tIEND {c : ChunkOrder} (hend : c.iendSeen = false) (hihdr : c.ihdrSeen = true)
    (hidat : c.idat ≠ .noIdat) : c.Accepts tIEND 0 [] :=
  ⟨hend, by simp [hihdr, tIEND, tIHDR], nofun, nofun, fun _ => ⟨hidat, rfl⟩, nofun⟩

/-- An 'IEND' closes the IDAT run and the stream (R137). -/
theorem ChunkOrder.update_tIEND {c : ChunkOrder} (hidat : c.idat ≠ .noIdat) :
    c.update tIEND = { c with iendSeen := true, idat := .closed } := by
  obtain ⟨ihdr, plte, idat, iend⟩ := c
  have hclosed : (if idat = .isOpen then IdatState.closed else idat) = .closed := by
    cases idat with
    | noIdat => exact absurd rfl hidat
    | isOpen => rfl
    | closed => rfl
  simp [ChunkOrder.update, tIEND, tIHDR, tPLTE, tIDAT, hclosed]

/-- Settles O32: Accept takes the chunk, so every check holds, and the written bytes are the 12 of R100. -/
theorem streamIsClosed : Obligations.StreamIsClosed := by
  intro s l hbusy o at0 hstarted hroom hmem hend hihdr hidat
  have hchecks : allHold (emIendChecks o s) :=
    allHold_emitChecks hstarted hroom hmem (accepts_tIEND hend hihdr hidat)
  refine ⟨s.completed (Memory.writeBytes s.mem at0 iendBytes) _ 12 0xAE426082 0 0, ?_, eq_completed_mem ..,
    memRead_completed_same, sameOutside_completed⟩
  simp only [exec, execEmIend, State.operands_busy hbusy]
  rw [conclude_pass hchecks, emit_completed, ChunkOrder.update_tIEND hidat]
  rfl

end Sys2Proof.Machine
end

section
/-!
PROOFS. Command issue (40_command_issue.md R110-R116): acceptance, the engine's step, NOP, and what an error changes.
-/

namespace Sys2Proof.Machine

/-! ### Errors (R113, R244) -/

theorem Instr.isFramer_iff (i : Instr) : Instr.isFramer i = true ↔ Instr.Framer i := by
  cases i <;> simp [Instr.isFramer, Instr.Framer]

/-- The error entry of a command, field by field (R146, R244). -/
theorem State.failAs_eq (s : State) (i : Instr) (r : Raise) :
    s.failAs i r = { s with
      status := { s.status with err := true, errCode := r.code.code }
      errOffset := r.off
      errChunk := r.chunk
      regs := if Instr.Framer i then { s.regs with fr := { s.regs.fr with fail := true } } else s.regs
      phase := .idle
      row := none
      raced := false } := by
  simp only [State.failAs, Instr.isFramer_iff]
  split_ifs
  · rfl
  · rfl

/-- Settles O47: a command does its error entry or succeeds, and each is known field by field. -/
theorem errorsChangeNothingElse : Obligations.ErrorsChangeNothingElse := by
  refine ⟨fun e => by cases e <;> decide, fun s t l i hbusy hi hexec => ?_⟩
  rcases exec_does hi hexec with ⟨r, rfl⟩ | ⟨a, bs, g, r0, r1, r2, r3, rfl, -⟩
  · rw [State.failAs_eq]
    exact ⟨rfl, .inr ⟨r.code, rfl⟩⟩
  · exact ⟨rfl, .inl rfl⟩

/-! ### The engine's step (R112, R114, R208, R209) -/

section engine
variable {s : State} {l : Latched} {b : Bool}

/-- With no walk in progress the engine's move runs the latched command, whole or by scanlines. -/
theorem engineMove_command {i : Instr} (hbusy : s.phase = .busy l) (hraced : s.raced = false) (hrow : s.row = none)
    (hdec : decodeCommand l.word = .ok i) : s.engineMove b = if b then beginByRows i s else exec i s := by
  simp only [State.engineMove, hbusy, hraced, hrow, hdec, Bool.false_eq_true, if_false]

/-- During a walk the engine's move is the next scanline. -/
theorem engineMove_walk {w : RowWalk} (hbusy : s.phase = .busy l) (hraced : s.raced = false) (hrow : s.row = some w) :
    s.engineMove b = s.scanlineMove w := by
  simp only [State.engineMove, hbusy, hraced, hrow, Bool.false_eq_true, if_false]

/-- Only the two image commands go by scanlines. -/
theorem beginByRows_of_not_image {i : Instr} (hunfilter : i ≠ .unfilterImage) (hfilter : ∀ ft, i ≠ .filterImage ft) :
    beginByRows i s = exec i s := by
  unfold beginByRows
  split
  · exact absurd rfl hunfilter
  · exact absurd rfl (hfilter _)
  · rfl

/-- The scanline move of UNFILTER_IMAGE runs the byte in the filtered stream (R208). -/
theorem scanlineMove_unfilter {w : RowWalk} {i : Instr} (hkind : w.kind = .unfilter)
    (hdec : decodeFilterByte (s.readByte w.src) = .ok i) : s.scanlineMove w = exec i s := by
  simp only [State.scanlineMove, hkind, hdec]

/-- The scanline move of FILTER_IMAGE runs the type that FT selects (R209). -/
theorem scanlineMove_filter {w : RowWalk} {ft : BitVec 3} (hkind : w.kind = .filter ft) :
    s.scanlineMove w = exec (filterInstr (selectType ft w.bpp (s.memRead w.src w.rb) w.prior)) s := by
  simp only [State.scanlineMove, hkind]

theorem step_nil (h : s.agenda = []) : step s = s.engineMove false := by
  simp only [step, h]

theorem step_engine {rest : List Event} (h : s.agenda = .engine :: rest) :
    step s = State.engineMove { s with agenda := rest } false := by
  simp only [step, State.dropEvent, h, List.tail_cons]

theorem step_engineRow {rest : List Event} (h : s.agenda = .engineRow :: rest) :
    step s = State.engineMove { s with agenda := rest } true := by
  simp only [step, State.dropEvent, h, List.tail_cons]

/-- Unless the next event is the host's, the step is a move of the engine (log 3). -/
theorem step_eq_engineMove (h : ∀ op rest, s.agenda ≠ .host op :: rest) :
    ∃ b, step s = State.engineMove { s with agenda := s.agenda.tail } b := by
  cases ha : s.agenda with
  | nil => exact ⟨false, by rw [step_nil ha, List.tail_nil, ← ha]⟩
  | cons e rest =>
    cases e with
    | host op => exact absurd ha (h op rest)
    | engine => exact ⟨false, step_engine ha⟩
    | engineRow => exact ⟨true, step_engineRow ha⟩

end engine

/-- Settles O4: the engine's move is the latched command's meaning, or the scanline's filter-type byte's. -/
theorem stepRunsTheInstruction : Obligations.StepRunsTheInstruction := by
  refine ⟨fun s l i rest hbusy hraced hrow hdec => ⟨fun ha => ?_, fun ha => ?_, fun ha hunfilter hfilter => ?_⟩,
    fun s l w hbusy hraced hrow hhost => ?_⟩
  · exact (step_nil ha).trans (engineMove_command hbusy hraced hrow hdec)
  · exact (step_engine ha).trans (engineMove_command hbusy hraced hrow hdec)
  · exact ((step_engineRow ha).trans (engineMove_command hbusy hraced hrow hdec)).trans
      (beginByRows_of_not_image hunfilter hfilter)
  · intro u
    obtain ⟨b, hstep⟩ := step_eq_engineMove hhost
    have hmove : step s = u.scanlineMove w := hstep.trans (engineMove_walk hbusy hraced hrow)
    refine ⟨fun i hkind hdec => ?_, fun ft t hkind hcode => ?_, fun hkind => ?_⟩
    · exact hmove.trans (scanlineMove_unfilter hkind hdec)
    · rw [hmove, scanlineMove_filter hkind, selectType_of_code hcode]
    · rw [hmove, scanlineMove_filter hkind, selectType_auto]
      rfl

/-! ### Acceptance (R110) and NOP (R116) -/

/-- Settles O5: CMD takes the write while idle, and is locked while busy. -/
theorem commandWriteAccepts : Obligations.CommandWriteAccepts := by
  intro s w rest hagenda
  rw [step_host hagenda, State.hostMove, hostRegWrite_reg (r := .cmd) rfl rfl]
  refine ⟨fun hidle => ?_, fun hbusy => ?_⟩
  · have hb : State.busy { s with agenda := rest } = false := State.busy_eq_false.mpr hidle
    rw [hb]
    rfl
  · have hb : State.busy { s with agenda := rest } = true :=
      Bool.eq_true_of_not_eq_false (mt State.busy_eq_false.mp hbusy)
    rw [hb]
    rfl

/-- Settles O17: NOP is completion with success alone. -/
theorem nopCompletes : Obligations.NopCompletes := fun _ _ _ => rfl

end Sys2Proof.Machine
end

section
/-!
PROOFS. The first check that fails, and the errors of the parser commands in their order (41_chunk_framer.md R138, R139,
R145, R247).
-/

namespace Sys2Proof.Machine

/-! ### The first check that fails (R112) -/

section first
variable {pre cs : List Check} {c : Check} {f : Raise → State} {o : Host.Outcome State Fault Refusal} {r : Raise}

theorem allHold_singleton : allHold [c] ↔ c.holds = true := by
  simp [allHold]

theorem firstFailure_cons : firstFailure (c :: cs) = if c.holds = false then some c.orRaise else firstFailure cs := by
  cases hc : c.holds <;> simp [firstFailure, hc]

theorem conclude_nil : conclude [] f o = o := rfl

/-- The first check raises, or does not matter. -/
theorem conclude_cons :
    conclude (c :: cs) f o = if c.holds = false then .next (f c.orRaise) else conclude cs f o := by
  cases hc : c.holds <;> simp [conclude, firstFailure, hc]

theorem conclude_cons_fails (hc : c.holds = false) : conclude (c :: cs) f o = .next (f c.orRaise) :=
  conclude_cons.trans (if_pos hc)

theorem conclude_cons_holds (hc : c.holds = true) : conclude (c :: cs) f o = conclude cs f o :=
  conclude_cons.trans (if_neg (by simp [hc]))

/-- The last checks decide when those before them hold. -/
theorem conclude_append_fails (hpre : allHold pre) (h : firstFailure cs = some r) :
    conclude (pre ++ cs) f o = .next (f r) :=
  (conclude_append hpre).trans (conclude_fail h)

/-- Check `k` raises when it fails and every check before it holds. -/
theorem firstFailure_append_of_getElem {k : Nat} (hk : k < pre.length)
    (hbefore : ∀ j (hj : j < k), pre[j].holds = true) (hfails : pre[k].holds = false) :
    firstFailure (pre ++ cs) = some pre[k].orRaise := by
  refine firstFailure_eq_some.mpr ⟨pre.take k, pre[k], pre.drop (k + 1) ++ cs, ?_, fun x hx => ?_, hfails, rfl⟩
  · rw [← List.cons_append, ← List.append_assoc, List.cons_getElem_drop_succ, List.take_append_drop]
  · obtain ⟨j, hj, rfl⟩ := List.mem_take_iff_getElem.mp hx
    exact hbefore j (by omega)

end first

/-! ### FR_START (R138) -/

section frStart
variable {s : State} {l : Latched} {r : Raise}

/-- FR_START whose range is a u32 range in the memory raises what the signature checks raise. -/
theorem exec_frStart_of_signature (hbusy : s.phase = .busy l) (hsize : l.regs.arg0.toNat + l.regs.arg1.toNat ≤ u32Max)
    (hfit : (Range.mk l.regs.arg0.toNat l.regs.arg1.toNat).Fits s.memSize)
    (h : firstFailure (signatureChecks l.regs s) = some r) : exec .frStart s = .next (s.failFramer r) := by
  simp only [exec, execFrStart, State.operands_busy hbusy, frStartChecks]
  refine conclude_append_fails (allHold_append.mpr ⟨?_, allHold_boundsChecks.mpr ?_⟩) h
  · exact allHold_singleton.mpr (decide_eq_true hsize)
  · simpa [Range.inBounds_iff] using hfit

/-- The first byte that is not the signature's raises at its offset. -/
theorem firstFailure_signatureChecks_byte {o : OperandRegs} {i : Nat} (hi : i < min 8 o.arg1.toNat)
    (hbefore : ∀ j < i, s.readByte (o.arg0.toNat + j) = byteAt pngSignature j)
    (hwrong : s.readByte (o.arg0.toNat + i) ≠ byteAt pngSignature i) :
    firstFailure (signatureChecks o s) = some ⟨.signature, u32 i, 0⟩ := by
  rw [signatureChecks, firstFailure_append_of_getElem (k := i)]
  · simp
  · simpa using hi
  · exact fun j hj => by simpa using hbefore j hj
  · simpa using hwrong

/-- A correct beginning that is too short raises at its end. -/
theorem firstFailure_signatureChecks_short {o : OperandRegs} (hshort : o.arg1.toNat < 8)
    (hright : ∀ j < o.arg1.toNat, s.readByte (o.arg0.toNat + j) = byteAt pngSignature j) :
    firstFailure (signatureChecks o s) = some ⟨.signature, o.arg1, 0⟩ := by
  rw [signatureChecks, firstFailure_append]
  · have hshort : ¬8 ≤ o.arg1.toNat := by omega
    simp [firstFailure, hshort]
  · intro c hc
    obtain ⟨i, hi, rfl⟩ := List.mem_map.mp hc
    exact beq_iff_eq.mpr (hright i (by have := List.mem_range.mp hi; omega))

end frStart

/-- Settles O43: the range is checked first, then byte by byte, then the length. -/
theorem signatureErrors : Obligations.SignatureErrors := by
  intro s l hbusy o sig hsize
  refine ⟨fun hout => ?_, fun hfit => ⟨fun i hi hbefore hwrong => ?_, fun hshort hright => ?_⟩⟩
  · simp only [exec, execFrStart, State.operands_busy hbusy, frStartChecks]
    rw [List.append_assoc, conclude_append (allHold_singleton.mpr (decide_eq_true hsize))]
    refine conclude_of_uniform boundsChecks_raise (mt allHold_boundsChecks.mp ?_)
    simpa only [List.mem_singleton, forall_eq, Range.inBounds_iff] using hout
  · exact exec_frStart_of_signature hbusy hsize hfit (firstFailure_signatureChecks_byte hi hbefore hwrong)
  · exact exec_frStart_of_signature hbusy hsize hfit (firstFailure_signatureChecks_short hshort hright)

/-! ### FR_NEXT and FR_FINISH (R139, R145, R247) -/

theorem beValue_memRead_four_lt (s : State) (a : Nat) : beValue (s.memRead a 4) < 2 ^ 32 := by
  have hbyte (k : Nat) : (s.readByte k).toNat < 2 ^ 8 := (s.readByte k).isLt
  have := hbyte a
  have := hbyte (a + 1)
  have := hbyte (a + 2)
  have := hbyte (a + 3)
  rw [beValue_memRead_four]
  omega

section parser
variable {s : State} {l : Latched} {o : OperandRegs} {r : Raise}

/-- No parse is open: FR_NEXT and FR_FINISH raise E_SEQUENCE (R146). -/
theorem exec_parser_closed (hbusy : s.phase = .busy l)
    (h : l.regs.fr.sigOk = false ∨ l.regs.fr.fail = true ∨ l.regs.fr.done = true) :
    exec .frNext s = .next (s.failFramer ⟨.sequence, 0, 0⟩)
      ∧ exec .frFinish s = .next (s.failFramer ⟨.sequence, 0, 0⟩) := by
  have hclosed : (l.regs.fr.sigOk && !l.regs.fr.fail && !l.regs.fr.done) = false := by
    rcases h with h | h | h <;> simp [h]
  simp only [exec, execFrNext, execFrFinish, frFinishChecks, State.operands_busy hbusy]
  refine ⟨conclude_cons_fails (c := frNextSequence _) ?_, conclude_cons_fails hclosed⟩
  rw [frNextSequence, hclosed, Bool.false_and]

/-- The parse is open and FR_NEXT does not stand behind the 'IEND' at the end (R139 step 2). -/
theorem frNextSequence_holds (hsig : o.fr.sigOk = true) (hfail : o.fr.fail = false) (hdone : o.fr.done = false)
    (hend : ¬(o.fr.order.iendSeen = true ∧ o.frCursor = o.frLimit)) : (frNextSequence o).holds = true := by
  simpa [frNextSequence, hsig, hfail, hdone, ← Bool.not_eq_true, ← not_and_or] using hend

/-- FR_NEXT stands behind the 'IEND' at the end of the stream (R139 step 2). -/
theorem frNextSequence_at_end (hiend : o.fr.order.iendSeen = true) (hat : o.frCursor = o.frLimit) :
    (frNextSequence o).holds = false := by
  simp [frNextSequence, hiend, hat]

/-- FR_NEXT raises E_BOUNDS when a race has put the chunk outside the memory (log 13). -/
theorem exec_frNext_out_of_bounds (hbusy : s.phase = .busy l) (hseq : (frNextSequence l.regs).holds = true)
    (hout : ¬RangesFit .frNext l.regs s) :
    let at0 := l.regs.frCursor.toNat
    exec .frNext s = .next (s.failFramer ⟨.bounds, 0,
      if at0 + 8 ≤ l.regs.frLimit.toNat ∧ at0 + 8 ≤ s.memSize then packType (s.chunkType at0) else 0⟩) := by
  simp only [exec, execFrNext, State.operands_busy hbusy, frNextBounds, ← le_min_iff]
  rw [List.cons_append, conclude_cons_holds hseq]
  refine conclude_of_uniform boundsChecks_raise (mt allHold_boundsChecks.mp ?_)
  simpa only [RangesFit, writeSet, List.append_nil, Range.inBounds_iff] using hout

/-- FR_NEXT past steps 2 and 7 raises what the checks of the chunk raise. The range it reads ends at FR_LIMIT or is
empty. -/
theorem exec_frNext_of_chunk (hbusy : s.phase = .busy l) (hseq : (frNextSequence l.regs).holds = true)
    (hlimit : l.regs.frLimit.toNat - l.regs.frCursor.toNat = 0 ∨ l.regs.frLimit.toNat ≤ s.memSize)
    (h : firstFailure (frNextChecks l.regs s) = some r) : exec .frNext s = .next (s.failFramer r) := by
  simp only [exec, execFrNext, State.operands_busy hbusy]
  refine conclude_append_fails (allHold_cons.mpr ⟨hseq, allHold_boundsChecks.mpr ?_⟩) h
  simp only [readSet, List.mem_singleton, forall_eq, Range.inBounds_iff]
  omega

/-- What the checks of the chunk raise, in their order (R139 step 9, R247). -/
theorem firstFailure_frNextChecks :
    let at0 := o.frCursor.toNat
    let q := offsetFrom o.frCursor o.frBase
    let m := o.frLimit.toNat - at0
    let len := s.chunkLength at0
    let t := s.chunkType at0
    let p := s.memRead (at0 + 8) len
    firstFailure (frNextChecks o s) =
      if o.fr.order.iendSeen = true then some ⟨.afterIend, q, 0⟩
      else if m < 12 then some ⟨.truncated, q, if 8 ≤ m then packType t else 0⟩
      else if m < 12 + len then some ⟨.length, q, packType t⟩
      else if beValue (s.memRead (at0 + 8 + len) 4) ≠ (crc32 (t ++ p)).toNat then some ⟨.crc, q, packType t⟩
      else firstFailure (acceptChecks o.fr.order q t len p) := by
  intro at0 q m len t p
  have hcrc : (crc32 (t ++ p) == u32 (beValue (s.memRead (at0 + 8 + len) 4))) = false
      ↔ beValue (s.memRead (at0 + 8 + len) 4) ≠ (crc32 (t ++ p)).toNat := by
    rw [beq_eq_false_iff_ne, ne_comm, ne_eq, ne_eq, ← BitVec.toNat_inj, toNat_u32 (beValue_memRead_four_lt s _)]
  simp only [frNextChecks, List.cons_append, List.nil_append, firstFailure_cons, Bool.not_eq_false',
    decide_eq_false_iff_not, Nat.not_le]
  exact if_congr Iff.rfl rfl (if_congr Iff.rfl rfl (if_congr Iff.rfl rfl (if_congr hcrc rfl rfl)))

/-- FR_FINISH of an open parse: its errors, or its success (R145). -/
theorem exec_frFinish_open (hbusy : s.phase = .busy l) (hsig : l.regs.fr.sigOk = true) (hfail : l.regs.fr.fail = false)
    (hdone : l.regs.fr.done = false) :
    let o := l.regs
    let q := offsetFrom o.frCursor o.frBase
    exec .frFinish s =
      if o.fr.order.iendSeen = false then .next (s.failFramer ⟨.missingIend, q, 0⟩)
      else if o.frCursor.toNat < o.frLimit.toNat then .next (s.failFramer ⟨.afterIend, q, 0⟩)
      else .next (s.completed s.mem { s.regs with fr := { o.fr with done := true } } (offsetFrom o.frLimit o.frBase)
        0 0 0) := by
  have hopen : (l.regs.fr.sigOk && !l.regs.fr.fail && !l.regs.fr.done) = true := by simp [hsig, hfail, hdone]
  simp only [exec, execFrFinish, State.operands_busy hbusy, frFinishChecks, conclude_cons, Bool.not_eq_false',
    decide_eq_true_eq, conclude_nil]
  rw [if_neg (ne_false_of_eq_true hopen)]
  rfl

end parser

/-- Settles O44: step 2, then step 7, then the checks of the chunk in their order. -/
theorem parserErrors : Obligations.ParserErrors := by
  intro s l hbusy o f at0 q m len t p fails
  refine ⟨exec_parser_closed hbusy, fun hiend hat => ?_, fun hsig hfail hdone hend hout => ?_,
    fun hsig hfail hdone => ?_⟩
  · simp only [fails, exec, execFrNext, State.operands_busy hbusy]
    exact conclude_cons_fails (c := frNextSequence o) (frNextSequence_at_end hiend hat)
  · exact exec_frNext_out_of_bounds hbusy (frNextSequence_holds hsig hfail hdone hend) hout
  have hfinish := exec_frFinish_open hbusy hsig hfail hdone
  have hchunk (hend : ¬(f.order.iendSeen = true ∧ o.frCursor = o.frLimit)) (hlimit : m = 0 ∨ o.frLimit.toNat ≤ s.memSize)
      {r : Raise} (h : firstFailure (frNextChecks o s) = some r) : fails .frNext r :=
    exec_frNext_of_chunk hbusy (frNextSequence_holds hsig hfail hdone hend) hlimit h
  have hfirst : firstFailure (frNextChecks o s) = _ := firstFailure_frNextChecks
  refine ⟨fun hiend => ?_, fun hiend hlt => ⟨?_, fun hlimit => ?_⟩, fun hiend hlimit => ?_⟩
  · exact hfinish.trans (if_pos hiend)
  · exact hfinish.trans ((if_neg (ne_false_of_eq_true hiend)).trans (if_pos hlt))
  · have hne : o.frCursor ≠ o.frLimit := fun h => absurd (h ▸ hlt) (lt_irrefl _)
    exact hchunk (fun h => hne h.2) (.inr hlimit) (hfirst.trans (if_pos hiend))
  · have hiend : ¬f.order.iendSeen = true := ne_true_of_eq_false hiend
    have hraises {r : Raise} (h : firstFailure (frNextChecks o s) = some r) : fails .frNext r :=
      hchunk (fun h => hiend h.1) hlimit h
    rw [if_neg hiend] at hfirst
    refine ⟨fun hroom => ?_, fun hroom hlen => ?_, fun hlen hcrc => ?_, fun r hlen hcrc haccept => ?_⟩
    · exact hraises (hfirst.trans (if_pos hroom))
    · exact hraises (hfirst.trans ((if_neg (Nat.not_lt.mpr hroom)).trans (if_pos hlen)))
    all_goals
      refine hraises (hfirst.trans ((if_neg (Nat.not_lt.mpr (Nat.le_of_add_right_le hlen))).trans
        ((if_neg (Nat.not_lt.mpr hlen)).trans ?_)))
    · exact if_pos hcrc
    · exact (if_neg (not_not.mpr hcrc)).trans haccept

/-- Settles O27: no check of FR_FINISH fails. -/
theorem parseFinishes : Obligations.ParseFinishes := by
  intro s l hbusy o hsig hfail hdone hiend hend
  exact (exec_frFinish_open hbusy hsig hfail hdone).trans
    ((if_neg (ne_false_of_eq_true hiend)).trans (if_neg (Nat.not_lt.mpr hend)))

end Sys2Proof.Machine
end

section
/-!
PROOFS. Accept (41_chunk_framer.md R133-R137), and the errors of the emit commands in their order (R150-R152, R156-R158).
-/

namespace Sys2Proof.Machine

/-! ### Accept (R133-R137) -/

section accept
variable {c : ChunkOrder} {q : Word} {t p : List Byte} {len : Nat}

/-- What IhdrCheck raises (R134). -/
theorem firstFailure_ihdrChecks :
    let ct := (byteAt p 9).toNat
    let field := fun k : Word => some (Raise.mk .ihdrField (q + 8 + k) (packType t))
    firstFailure (ihdrChecks q t len p) =
      if len ≠ 13 then some ⟨.ihdrLength, q, packType t⟩
      else if beValue (p.take 4) = 0 then field 0
      else if beValue ((p.drop 4).take 4) = 0 then field 4
      else if ct ∉ [0, 2, 3, 4, 6] then field 9
      else if depthLegal ct (byteAt p 8).toNat = false then field 8
      else if byteAt p 10 ≠ 0 then field 10
      else if byteAt p 11 ≠ 0 then field 11
      else if byteAt p 12 ≠ 0 ∧ byteAt p 12 ≠ 1 then field 12
      else none := by
  have hinterlace : (byteAt p 12).toNat ∉ [0, 1] ↔ byteAt p 12 ≠ 0 ∧ byteAt p 12 ≠ 1 := by
    simp [BitVec.toNat_eq]
  simp only [ihdrChecks, firstFailure_cons, beq_eq_false_iff_ne, bne_eq_false_iff_eq, colorTypeLegal,
    List.contains_eq_mem, decide_eq_false_iff_not, hinterlace]
  rfl

/-- What PlteCheck raises (R135). -/
theorem firstFailure_plteCheck : firstFailure [plteCheck q t len] =
    if len = 0 ∨ len % 3 ≠ 0 ∨ 768 < len then some ⟨.plteLength, q, packType t⟩ else none := by
  have hfails : (plteCheck q t len).holds = false ↔ len = 0 ∨ len % 3 ≠ 0 ∨ 768 < len := by
    rw [← Bool.not_eq_true, plteCheck_holds]
    omega
  exact firstFailure_cons.trans (if_congr hfails rfl rfl)

/-- What IendCheck raises (R136). -/
theorem firstFailure_iendCheck : firstFailure [iendCheck q t len] =
    if len ≠ 0 then some ⟨.iendLength, q, packType t⟩ else none :=
  firstFailure_cons.trans (if_congr beq_eq_false_iff_ne rfl rfl)

/-- The checks of R133 that depend on the type alone, then those of the type. -/
theorem firstFailure_typeChecks :
    firstFailure ((if t = tIHDR then ihdrChecks q t len p else []) ++ (if t = tPLTE then [plteCheck q t len] else [])
        ++ (if t = tIEND then [iendCheck q t len] else [])) =
      if t = tIHDR then firstFailure (ihdrChecks q t len p)
      else if t = tPLTE then firstFailure [plteCheck q t len]
      else if t = tIEND then firstFailure [iendCheck q t len]
      else none := by
  by_cases hihdr : t = tIHDR
  · subst hihdr
    simp [tIHDR, tPLTE, tIEND]
  · by_cases hplte : t = tPLTE
    · subst hplte
      simp [tIHDR, tPLTE, tIEND]
    · simp only [hihdr, hplte, if_false, List.nil_append]
      split <;> rfl

end accept

/-- Settles O46: the checks one by one, and those of the chunk's type last. -/
theorem acceptanceFunction : Obligations.AcceptanceFunction := by
  intro c q t len p raises field ct
  refine ⟨?_, firstFailure_eq_none.trans allHold_acceptChecks, ?_⟩
  · simp only [acceptChecks, List.append_assoc, List.cons_append, List.nil_append, firstFailure_cons,
      Bool.not_eq_false', Bool.or_eq_false_iff, Bool.and_eq_true, beq_iff_eq, beq_eq_false_iff_ne]
    rw [← List.append_assoc, firstFailure_typeChecks, firstFailure_ihdrChecks, firstFailure_plteCheck,
      firstFailure_iendCheck]
  · have hor (b : Bool) (u : List Byte) : (b || t == u) = if t = u then true else b := by
      split_ifs with h <;> simp [h]
    simp only [ChunkOrder.update, hor]

/-! ### The emit commands (R150-R158) -/

/-- Steps 7 and 8 of an emit command: what it reads and what it writes in bounds, and apart (20_memory.md R63, R65). -/
def emitRangeChecks (i : Instr) (o : OperandRegs) (s : State) (chunk : Word) : List Check :=
  boundsChecks s.memSize (readSet i o s ++ writeSet i o) (argRaise .bounds chunk)
    ++ overlapChecks (readSet i o s) (writeSet i o) (argRaise .overlap chunk)

/-- The errors that the outcome `u` of an emit command `i` of `n` bytes shows from step 6 on, in their order: E_CAPACITY,
E_BOUNDS, E_OVERLAP, and what the checks `accept` of the acceptance function raise. -/
structure EmitErrors (i : Instr) (o : OperandRegs) (s : State) (n : Nat) (chunk : Word) (accept : List Check)
    (u : Host.Outcome State Fault Refusal) : Prop where
  capacity : o.emLimit.toNat - o.emCursor.toNat < n →
    u = .next (s.failWith ⟨.capacity, offsetFrom o.emCursor o.emBase, chunk⟩)
  bounds : n ≤ o.emLimit.toNat - o.emCursor.toNat → ¬RangesFit i o s → u = .next (s.failWith ⟨.bounds, 0, chunk⟩)
  overlap : n ≤ o.emLimit.toNat - o.emCursor.toNat → RangesFit i o s → ¬RangesApart i o s →
    u = .next (s.failWith ⟨.overlap, 0, chunk⟩)
  accept : n ≤ o.emLimit.toNat - o.emCursor.toNat → RangesFit i o s → RangesApart i o s →
    ∀ r, firstFailure accept = some r → u = .next (s.failWith r)

section emit
variable {s : State} {l : Latched} {o : OperandRegs} {i : Instr} {n : Nat} {chunk : Word} {pre accept : List Check}
  {u : Host.Outcome State Fault Refusal}

/-- Once the stream is open and the checks of the arguments hold, room, ranges and Accept decide, in this order. -/
theorem emitErrors_conclude (hstarted : o.em.started = true) (hpre : allHold pre) :
    EmitErrors i o s n chunk accept (conclude (emSequence o :: (pre ++ emCapacity o n chunk
      :: (emitRangeChecks i o s chunk ++ accept))) s.failWith u) := by
  have hfit : allHold (boundsChecks s.memSize (readSet i o s ++ writeSet i o) (argRaise .bounds chunk))
      ↔ RangesFit i o s := by simp only [allHold_boundsChecks, Range.inBounds_iff]
  have hapart : allHold (overlapChecks (readSet i o s) (writeSet i o) (argRaise .overlap chunk))
      ↔ RangesApart i o s := by simp only [allHold_overlapChecks, Range.overlaps_eq_false_iff_apart]
  rw [conclude_cons_holds (c := emSequence o) hstarted, conclude_append hpre]
  have hroom (h : n ≤ o.emLimit.toNat - o.emCursor.toNat) : (emCapacity o n chunk).holds = true := decide_eq_true h
  constructor
  · exact fun h => conclude_cons_fails (decide_eq_false (Nat.not_le.mpr h))
  · intro h hout
    rw [conclude_cons_holds (hroom h), emitRangeChecks, List.append_assoc]
    exact conclude_of_uniform boundsChecks_raise (mt hfit.mp hout)
  · intro h hin hover
    rw [conclude_cons_holds (hroom h), emitRangeChecks, List.append_assoc, conclude_append (hfit.mpr hin)]
    exact conclude_of_uniform overlapChecks_raise (mt hapart.mp hover)
  · intro h hin hap r hr
    rw [conclude_cons_holds (hroom h)]
    exact conclude_append_fails (allHold_append.mpr ⟨hfit.mpr hin, hapart.mpr hap⟩) hr

/-- EM_CHUNK's checks of its arguments: the chunk's length fits 32 bits (R152). -/
theorem exec_emChunk_errors (hbusy : s.phase = .busy l) (hstarted : l.regs.em.started = true)
    (hsize : 12 + l.regs.arg2.toNat ≤ u32Max) :
    let o := l.regs
    EmitErrors .emChunk o s (12 + o.arg2.toNat) o.arg0 (acceptChecks o.em.order o.emOffset (bytesBE4 o.arg0)
      o.arg2.toNat (s.memRead o.arg1.toNat o.arg2.toNat)) (exec .emChunk s) := by
  simp only [exec, execEmChunk, State.operands_busy hbusy]
  exact emitErrors_conclude (pre := [⟨decide (12 + l.regs.arg2.toNat ≤ u32Max), argRaise .overflow l.regs.arg0⟩])
    hstarted (allHold_singleton.mpr (decide_eq_true hsize))

theorem exec_emIhdr_errors (hbusy : s.phase = .busy l) (hstarted : l.regs.em.started = true) :
    let o := l.regs
    EmitErrors .emIhdr o s 25 0x49484452 (acceptChecks o.em.order o.emOffset tIHDR 13 (headerPayload o.hdr))
      (exec .emIhdr s) := by
  simp only [exec, execEmIhdr, State.operands_busy hbusy]
  exact emitErrors_conclude (pre := []) hstarted nofun

theorem exec_emIend_errors (hbusy : s.phase = .busy l) (hstarted : l.regs.em.started = true) :
    let o := l.regs
    EmitErrors .emIend o s 12 0x49454E44 (acceptChecks o.em.order o.emOffset tIEND 0 []) (exec .emIend s) := by
  simp only [exec, execEmIend, State.operands_busy hbusy]
  exact emitErrors_conclude (pre := []) hstarted nofun

/-- EM_IDAT's checks of its arguments: IDAT_MAX is not 0, and the run's length fits 32 bits (R157). -/
theorem exec_emIdat_errors (hbusy : s.phase = .busy l) (hstarted : l.regs.em.started = true) :
    let o := l.regs
    let total := 12 * idatChunks o.arg2.toNat o.idatMax.toNat + o.arg2.toNat
    o.idatMax ≠ 0 → total ≤ u32Max →
      EmitErrors .emIdat o s total 0x49444154 (acceptChecks o.em.order o.emOffset tIDAT 0 []) (exec .emIdat s) := by
  intro o total hmost hsize
  simp only [exec, execEmIdat, State.operands_busy hbusy]
  exact emitErrors_conclude (pre := [⟨o.idatMax != 0, argRaise .argRange (packType tIDAT)⟩,
      ⟨decide (total ≤ u32Max), argRaise .overflow (packType tIDAT)⟩])
    hstarted (allHold_cons.mpr ⟨bne_iff_ne.mpr hmost, allHold_singleton.mpr (decide_eq_true hsize)⟩)

/-- Before EM_START the other emit commands raise E_SEQUENCE as their first check (R152). -/
theorem exec_emit_closed (hbusy : s.phase = .busy l) (hclosed : l.regs.em.started = false) :
    ∀ i ∈ [Instr.emChunk, .emIhdr, .emIdat, .emIend], exec i s = .next (s.failWith ⟨.sequence, 0, 0⟩) := by
  have hseq : (emSequence s.operands).holds = false := by rwa [State.operands_busy hbusy]
  simp only [List.forall_mem_cons]
  exact ⟨conclude_cons_fails hseq, conclude_cons_fails hseq, conclude_cons_fails hseq, conclude_cons_fails hseq, nofun⟩

/-- The errors of EM_START after its overflow check (R150). -/
theorem exec_emStart_errors (hbusy : s.phase = .busy l) (hsize : l.regs.arg0.toNat + l.regs.arg1.toNat ≤ u32Max) :
    let o := l.regs
    (o.arg1.toNat < 8 → exec .emStart s = .next (s.failWith ⟨.capacity, 0, 0⟩))
      ∧ (8 ≤ o.arg1.toNat → s.memSize < o.arg0.toNat + o.arg1.toNat →
        exec .emStart s = .next (s.failWith ⟨.bounds, 0, 0⟩)) := by
  intro o
  simp only [exec, execEmStart, State.operands_busy hbusy]
  refine ⟨fun hshort => ?_, fun hlong hout => ?_⟩
  · exact (conclude_cons_holds (decide_eq_true hsize)).trans
      (conclude_cons_fails (decide_eq_false (Nat.not_le.mpr hshort)))
  · refine (conclude_cons_holds (decide_eq_true hsize)).trans ((conclude_cons_holds (decide_eq_true hlong)).trans
      (conclude_cons_fails (Bool.eq_false_iff.mpr (mt Range.inBounds_iff.mp ?_))))
    exact not_or.mpr ⟨Nat.ne_zero_of_lt hlong, Nat.not_le.mpr hout⟩

end emit

/-- Settles O45: after the stream and the arguments, room, ranges and Accept decide. -/
theorem emitterErrors : Obligations.EmitterErrors := by
  intro s l hbusy o q room len total fails
  refine ⟨exec_emStart_errors hbusy, exec_emit_closed hbusy, fun hstarted => ?_⟩
  have hchunk (hsize : 12 + len ≤ 2 ^ 32 - 1) := exec_emChunk_errors hbusy hstarted hsize
  have hihdr := exec_emIhdr_errors hbusy hstarted
  have hidat (hmost : o.idatMax ≠ 0) (hsize : total ≤ 2 ^ 32 - 1) := exec_emIdat_errors hbusy hstarted hmost hsize
  have hiend := exec_emIend_errors hbusy hstarted
  refine ⟨fun hsize => (hchunk hsize).capacity, hihdr.capacity, fun hmost hsize => (hidat hmost hsize).capacity,
    hiend.capacity, fun hsize hroom => ⟨(hchunk hsize).bounds hroom, (hchunk hsize).overlap hroom⟩, hihdr.bounds,
    fun hmost hsize hroom => ⟨(hidat hmost hsize).bounds hroom, (hidat hmost hsize).overlap hroom⟩, hiend.bounds,
    ?_, ?_, ?_, ?_⟩
  · exact fun r hsize hroom hfit hapart => (hchunk hsize).accept hroom hfit hapart r
  · exact fun r hroom hfit => hihdr.accept hroom hfit nofun r
  · exact fun r hmost hsize hroom hfit hapart => (hidat hmost hsize).accept hroom hfit hapart r
  · exact fun r hroom hfit => hiend.accept hroom hfit nofun r

end Sys2Proof.Machine
end

section
/-!
PROOFS. Arguments out of range (44_adam7.md R222-R224, 41_chunk_framer.md R157), and what a row's or an image's data can
raise (42_bit_unpacker.md R180, 43_filter_engine.md R205, R206, R208, R209).
-/

namespace Sys2Proof.Machine

section data
variable {s : State} {a k n : Nat} {h : Header}

/-- A byte above 4 is no filter type (R205). -/
theorem typeByteCheck_fails {b : Byte} (hb : 4 < b.toNat) (so : Nat) : (typeByteCheck b so).holds = false := by
  obtain ⟨n, hn⟩ : ∃ n, b.toNat = n + 5 := ⟨b.toNat - 5, by omega⟩
  simp only [typeByteCheck, filterTypeOf, hn]
  rfl

/-- Slot `k` of a row of `n` slots in the memory is the big-endian value of its bytes (R175). -/
theorem slotSample_memRead (hk : k < n) : slotSample h.sampleWidth (s.memRead a (n * h.sampleWidth)) k
    = beValue (s.memRead (a + k * h.sampleWidth) h.sampleWidth) := by
  unfold Header.sampleWidth
  split_ifs
  · have hone : s.memRead (a + k * 1) 1 = [s.readByte (a + k * 1)] := rfl
    simp only [slotSample, hone, beValue, List.foldl_cons, List.foldl_nil, if_true]
    rw [byteAt_memRead (by omega), Nat.zero_mul, Nat.zero_add, Nat.mul_one]
  · have hpair : s.memRead (a + k * 2) 2 = [s.readByte (a + k * 2), s.readByte (a + k * 2 + 1)] := rfl
    simp only [slotSample, hpair, beValue, List.foldl_cons, List.foldl_nil]
    rw [if_neg (by decide), byteAt_memRead (by omega), byteAt_memRead (by omega)]
    simp [Nat.mul_comm k 2, Nat.add_assoc]

/-- The first sample of 2^d or more raises (R180). -/
theorem firstFailure_sampleChecks {d sw : Nat} {vs : List Nat} (hk : k < vs.length)
    (hbefore : ∀ j (hj : j < k), vs[j] < 2 ^ d) (hbig : 2 ^ d ≤ vs[k]) :
    firstFailure (sampleChecks d sw vs) = some ⟨.sampleRange, u32 (k * sw), 0⟩ := by
  rw [← List.append_nil (sampleChecks d sw vs), firstFailure_append_of_getElem (k := k)]
  · simp [sampleChecks]
  · simpa [sampleChecks] using hk
  · exact fun j hj => by simpa [sampleChecks] using hbefore j hj
  · simpa [sampleChecks] using hbig

end data

section commands
variable {s : State} {l : Latched}

/-- PACK_ROW past its ranges raises what its samples raise (R180). -/
theorem exec_packRow_sample (hbusy : s.phase = .busy l) {k : Nat} :
    let o := l.regs
    let h := o.hdr
    let n := h.samples o.arg2.toNat
    let sample := fun k => beValue (s.memRead (o.arg0.toNat + k * h.sampleWidth) h.sampleWidth)
    h.fmtValid = true → 1 + h.rowBytes o.arg2.toNat ≤ u32Max → n * h.sampleWidth ≤ u32Max →
    RangesFit .packRow o s → RangesApart .packRow o s → k < n → (∀ j < k, sample j < 2 ^ h.bitDepth) →
    2 ^ h.bitDepth ≤ sample k →
      exec .packRow s = .next (s.failWith ⟨.sampleRange, u32 (k * h.sampleWidth), 0⟩) := by
  intro o h n sample hfmt hrow hsamples hfit hapart hk hbefore hbig
  have hslot {j : Nat} (hj : j < n) :
      slotSample h.sampleWidth (s.memRead o.arg0.toNat (n * h.sampleWidth)) j = sample j := slotSample_memRead hj
  simp only [exec, execPackRow, State.operands_busy hbusy]
  refine conclude_append_fails
    (allHold_append.mpr ⟨allHold_rowChecks hfmt hrow hsamples, allHold_rangeChecks.mpr ⟨hfit, hapart⟩⟩)
    (firstFailure_sampleChecks (by simpa using hk) (fun j hj => ?_) ?_)
  · simpa [slotSamples] using (hslot (hj.trans hk)).trans_lt (hbefore j hj)
  · simpa [slotSamples] using hbig.trans_eq (hslot hk).symm

/-- UNFILTER_ROW past its ranges raises on its type byte (R206). -/
theorem exec_unfilterRow_typeByte (hbusy : s.phase = .busy l) {zp : Bool} :
    let o := l.regs
    o.hdr.fmtValid = true → 1 + o.hdr.rowBytes o.arg3.toNat ≤ u32Max → RangesFit (.unfilterRow zp) o s →
    RangesApart (.unfilterRow zp) o s → 4 < (s.readByte o.arg0.toNat).toNat →
      exec (.unfilterRow zp) s = .next (s.failWith ⟨.filterType, 0, 0⟩) := by
  intro o hfmt hlen hfit hapart hbyte
  simp only [exec, execUnfilterRow, State.operands_busy hbusy]
  exact conclude_append_fails
    (allHold_append.mpr ⟨allHold_filteredRowChecks hfmt hlen, allHold_rangeChecks.mpr ⟨hfit, hapart⟩⟩)
    (firstFailure_cons.trans (if_pos (typeByteCheck_fails hbyte 0)))

/-- UNFILTER_IMAGE past its ranges raises on the first bad type byte (R208). -/
theorem exec_unfilterImage_typeByte (hbusy : s.phase = .busy l) {before after : List Nat} {so : Nat} :
    let o := l.regs
    let ps := o.hdr.passRows
    o.hdr.imageValid = true → filteredBytes ps ≤ u32Max → o.arg2.toNat = filteredBytes ps →
    RangesFit .unfilterImage o s → RangesApart .unfilterImage o s → typeOffsets ps 0 = before ++ so :: after →
    (∀ x ∈ before, (s.readByte (o.arg0.toNat + x)).toNat ≤ 4) → 4 < (s.readByte (o.arg0.toNat + so)).toNat →
      exec .unfilterImage s = .next (s.failWith ⟨.filterType, u32 so, 0⟩) := by
  intro o ps himage hsize hlen hfit hapart hsplit hbefore hbyte
  simp only [exec, execUnfilterImage, unfilterImageChecks, State.operands_busy hbusy]
  refine conclude_append_fails
    (allHold_append.mpr ⟨allHold_imageChecks himage hsize hlen, allHold_rangeChecks.mpr ⟨hfit, hapart⟩⟩) ?_
  rw [hsplit, List.map_append, firstFailure_append, List.map_cons]
  · exact firstFailure_cons.trans (if_pos (typeByteCheck_fails hbyte so))
  · intro c hc
    obtain ⟨x, hx, rfl⟩ := List.mem_map.mp hc
    exact filterTypeOf_isSome (hbefore x hx)

/-- An image command with a wrong declared length raises after its header and its sizes (R208, R209). -/
theorem conclude_dataLength_fails {h : Header} {len want : Nat} {cs : List Check} {f : Raise → State}
    {u : Host.Outcome State Fault Refusal} (himage : h.imageValid = true) (hsize : filteredBytes h.passRows ≤ u32Max)
    (hlen : len ≠ want) :
    conclude (imageCheck h :: imageFitsCheck h :: dataLengthCheck len want :: cs) f u
      = .next (f ⟨.dataLength, u32 (min len want), 0⟩) :=
  (conclude_cons_holds himage).trans ((conclude_cons_holds (imageFits_of_filteredBytes hsize)).trans
    (conclude_cons_fails (beq_false_of_ne hlen)))

/-- The mapper commands have the one check (R222-R224). -/
theorem conclude_argRange_fails {b : Bool} {u : Host.Outcome State Fault Refusal} (h : ¬b = true) :
    conclude [⟨b, raise .argRange⟩] s.failWith u = .next (s.failWith ⟨.argRange, 0, 0⟩) :=
  conclude_cons_fails (Bool.eq_false_iff.mpr h)

end commands

/-- Settles O42: in each command the checks before the one that fails hold. -/
theorem argumentAndDataErrors : Obligations.ArgumentAndDataErrors := by
  intro s l hbusy o h ps sw dims fails
  refine ⟨fun hpass => ?_, fun hmap => ?_, fun hinv => ?_, fun hstarted hmost => ?_,
    fun zp => exec_unfilterRow_typeByte hbusy, fun k => exec_packRow_sample hbusy, fun himage hsize hlen => ?_,
    fun ft hft himage hsize hlen => ?_, fun before so after => exec_unfilterImage_typeByte hbusy⟩
  · simp only [fails, exec, execA7Dims, State.operands_busy hbusy]
    exact conclude_argRange_fails (mt of_decide_eq_true (Nat.not_le.mpr hpass))
  · simp only [fails, exec, execA7Map, State.operands_busy hbusy]
    refine conclude_argRange_fails ?_
    simp only [Bool.and_eq_true, decide_eq_true_eq]
    change ¬((o.arg0.toNat ≤ 7 ∧ o.arg1.toNat < dims.1) ∧ o.arg2.toNat < dims.2)
    omega
  · simp only [fails, exec, execA7Inv, State.operands_busy hbusy]
    refine conclude_argRange_fails ?_
    simp only [Bool.and_eq_true, decide_eq_true_eq]
    change ¬(o.arg0.toNat < h.width.toNat ∧ o.arg1.toNat < h.height.toNat)
    omega
  · simp only [fails, exec, execEmIdat, State.operands_busy hbusy]
    exact (conclude_cons_holds (c := emSequence o) hstarted).trans (conclude_cons_fails (by simpa using hmost))
  · simp only [fails, exec, execUnfilterImage, State.operands_busy hbusy]
    exact conclude_dataLength_fails himage hsize hlen
  · simp only [fails, exec, execFilterImage, State.operands_busy hbusy]
    exact (conclude_ftCheck hft).trans (conclude_dataLength_fails himage hsize hlen)

end Sys2Proof.Machine
end

section
/-!
PROOFS. FR_STATE.FAIL (41_chunk_framer.md R146): what sets it, and what a step can do that clears it.
-/

namespace Sys2Proof.Machine

/-! ### The host -/

section host
variable {s t : State}

/-- A register write leaves FR_STATE alone, but for a soft reset (R20, R24). -/
theorem writeReg_fr {r : Reg} {v : Word} (h : r = .ctrl → v.getLsbD 2 = false) :
    (s.writeReg r v).regs.fr = s.regs.fr := by
  cases r with
  | ctrl =>
    rw [State.writeReg, State.writeCtrl, if_neg (ne_true_of_eq_false (h rfl))]
    split <;> rfl
  | _ => rfl

/-- CTRL is at 0x0C (R20). -/
theorem hostRegWrite_fr {offset : BitVec 8} {width : AccessWidth} {v : Word}
    (h : s.hostRegWrite offset width v = .next t) :
    t.regs.fr = s.regs.fr ∨ offset = 0x0C ∧ width = .word ∧ v.getLsbD 2 = true := by
  cases ha : accessAligned offset width with
  | false =>
    rw [hostRegWrite_refused ha] at h
    cases h
  | true =>
    obtain ⟨rfl, h4⟩ : width = .word ∧ offset.toNat % 4 = 0 := by simpa [accessAligned] using ha
    obtain ⟨r, hr, haddr⟩ | ⟨hr, -⟩ := regAt_cases h4
    · rw [hostRegWrite_reg h4 hr] at h
      cases h
      by_cases hreset : r = .ctrl ∧ v.getLsbD 2 = true
      · exact .inr ⟨BitVec.eq_of_toNat_eq (haddr.trans (Reg.address_eq_ctrl.mpr hreset.1)), rfl, hreset.2⟩
      · refine .inl ?_
        split_ifs
        · rfl
        · exact writeReg_fr fun hc => Bool.eq_false_iff.mpr fun hv => hreset ⟨hc, hv⟩
    · rw [hostRegWrite_reserved h4 hr] at h
      cases h
      exact .inl rfl

/-- A register read leaves every register alone (R45, log 5). -/
theorem hostRegRead_regs {offset : BitVec 8} {width : AccessWidth} (h : s.hostRegRead offset width = .next t) :
    t.regs = s.regs := by
  unfold State.hostRegRead at h
  split_ifs at h
  split at h
  · cases h
    rfl
  · cases h
    split_ifs <;> rfl

/-- A host operation leaves FR_STATE alone, but for a soft reset and a power-on (R270, R271). -/
theorem hostMove_fr {op : HostOp} (h : s.hostMove op = .next t) :
    t.regs.fr = s.regs.fr ∨ (∃ v, op = .regWrite 0x0C .word v ∧ v.getLsbD 2 = true) ∨ op = .powerOn := by
  cases op with
  | regWrite offset width v =>
    exact (hostRegWrite_fr h).imp id fun ⟨hoffset, hwidth, hv⟩ => .inl ⟨v, by rw [hoffset, hwidth], hv⟩
  | powerOn => exact .inr (.inr rfl)
  | regRead offset width => exact .inl (congrArg OperandRegs.fr (hostRegRead_regs h))
  | memWrite addr v =>
    simp only [State.hostMove, State.hostMemWrite] at h
    split_ifs at h
    cases h
    exact .inl rfl
  | memRead addr =>
    simp only [State.hostMove, State.hostMemRead] at h
    split_ifs at h <;> cases h <;> exact .inl rfl
  | irqSample =>
    cases h
    exact .inl rfl

end host

/-! ### The engine -/

/-- The word of FR_START is 0x20 (30_encoding.md R81, R82). -/
theorem word_of_frStart {w : Word} (h : decodeCommand w = .ok .frStart) : w = 0x20 :=
  (Encoded.command.inj (encode_of_decodeCommand h).2).symm

section engine
variable {s t : State} {l : Latched} {b : Bool}

/-- A command that goes by scanlines leaves the registers alone in this move, or runs whole. -/
theorem beginByRows_regs {i : Instr} (h : beginByRows i s = .next t) : t.regs = s.regs ∨ exec i s = .next t := by
  have hwalk {cs : List Check} {k : WalkKind} (h : beginWalk cs k (exec i s) s = .next t) :
      t.regs = s.regs ∨ exec i s = .next t := by
    unfold beginWalk at h
    split at h
    · rcases conclude_next h with ⟨r, -, rfl⟩ | ⟨-, h⟩
      · exact .inl rfl
      · cases h
        exact .inl rfl
    · exact .inr h
  unfold beginByRows at h
  split at h
  · exact hwalk h
  · exact hwalk h
  · exact .inr h

/-- A move of a running command that is not raced leaves the registers alone, or runs the latched command. -/
theorem engineMove_regs (hbusy : s.phase = .busy l) (hraced : s.raced = false) (h : s.engineMove b = .next t) :
    t.regs = s.regs ∨ ∃ i, decodeCommand l.word = .ok i ∧ exec i s = .next t := by
  cases hrow : s.row with
  | some w =>
    obtain ⟨u, hu, hdoes⟩ := engineMove_does (b := b) hbusy hraced
    obtain rfl := Host.Outcome.next.inj (h.symm.trans hu)
    cases hdoes with
    | runs i t hi hnone => exact absurd (hrow.symm.trans hnone) nofun
    | fails | begins | walks | ends => exact .inl rfl
  | none =>
    cases hdec : decodeCommand l.word with
    | error e =>
      rw [engineMove_illegal (w := l.word) (g := l.regs) (by simp [hdec]) hbusy hraced hrow] at h
      cases h
      exact .inl rfl
    | ok i =>
      rw [engineMove_command hbusy hraced hrow hdec] at h
      split at h
      · exact (beginByRows_regs h).imp id fun h => ⟨i, rfl, h⟩
      · exact .inr ⟨i, rfl, h⟩

/-- A command that starts with FAIL set leaves it set, but for an FR_START that succeeds (R146). -/
theorem exec_fail_sticky {i : Instr} (hi : ∀ ty, i ≠ filterInstr ty) (hbusy : s.phase = .busy l) (hregs : l.regs = s.regs)
    (hfail : s.regs.fr.fail = true) (h : exec i s = .next t) :
    t.regs.fr.fail = true ∨ i = .frStart ∧ t.status.done = true := by
  obtain ⟨hnext, hfinish⟩ := exec_parser_closed hbusy (.inr (.inl (hregs ▸ hfail)))
  by_cases hf : Instr.Framer i
  · rcases hf with rfl | rfl | rfl
    · rcases conclude_next h with ⟨r, -, rfl⟩ | ⟨-, h⟩
      · exact .inl rfl
      · cases h
        exact .inr ⟨rfl, rfl⟩
    · cases hnext.symm.trans h
      exact .inl rfl
    · cases hfinish.symm.trans h
      exact .inl rfl
  · exact .inl (((exec_regsFrame hi h).framer hf).1 ▸ hfail)

/-- A move of the engine that is no race keeps FAIL set, but for the FR_START that succeeds (R146). -/
theorem engineMove_fail_sticky (hinv : s.Inv) (hraced : s.raced = false) (hfail : s.regs.fr.fail = true)
    (h : s.engineMove b = .next t) :
    t.regs.fr.fail = true ∨ s.cmd = 0x20 ∧ s.busy = true ∧ t.status.done = true := by
  cases hphase : s.phase with
  | idle =>
    cases (engineMove_idle hphase).symm.trans h
    exact .inl hfail
  | busy l =>
    obtain ⟨-, -, hlatched⟩ := hinv
    simp only [State.PhaseInv, hphase] at hlatched
    obtain ⟨hregs, hword⟩ := hlatched
    obtain hsame | ⟨i, hdec, hexec⟩ := engineMove_regs hphase hraced h
    · exact .inl (hsame ▸ hfail)
    · refine (exec_fail_sticky (decodeCommand_ne_filterInstr hdec) hphase hregs hfail hexec).imp id ?_
      rintro ⟨rfl, hdone⟩
      exact ⟨hword.symm.trans (word_of_frStart hdec), State.busy_of_phase hphase, hdone⟩

end engine

/-! ### The statement -/

/-- The error of a parser command changes FR_STATE.FAIL alone of the registers (R146). -/
theorem exec_framer_error {s t : State} {i : Instr} (hi : Instr.Framer i) (herr : s.status.err = false)
    (h : exec i s = .next t) (ht : t.status.err = true) :
    t.regs = { s.regs with fr := { s.regs.fr with fail := true } } := by
  rcases exec_does (i := i) (by rcases hi with rfl | rfl | rfl <;> nofun) h with
    ⟨r, rfl⟩ | ⟨a, bs, g, r0, r1, r2, r3, rfl, -⟩
  · rw [State.failAs_eq]
    exact if_pos hi
  · exact absurd (herr.symm.trans ht) nofun

/-- Settles O48: the host clears FAIL by a reset alone, and the engine by FR_START alone. -/
theorem parserFailureIsSticky : Obligations.ParserFailureIsSticky := by
  refine ⟨fun s t l i hbusy hi herr hexec ht => exec_framer_error (by simpa using hi) herr hexec ht,
    fun s t hinv hraced hfail hstep => ?_, fun s l hbusy hfail => exec_parser_closed hbusy (.inr (.inl hfail)),
    fun s l hbusy hraced hrow hillegal => ?_⟩
  · by_cases hhost : ∃ op rest, s.agenda = .host op :: rest
    · obtain ⟨op, rest, hagenda⟩ := hhost
      rw [step_host hagenda] at hstep
      obtain hfr | ⟨v, rfl, hv⟩ | rfl := hostMove_fr hstep
      · exact .inl ((congrArg FrState.fail hfr).trans hfail)
      · exact .inr (.inl ⟨rest, v, hagenda, hv⟩)
      · exact .inr (.inr (.inl ⟨rest, hagenda⟩))
    · obtain ⟨b, hmove⟩ := step_eq_engineMove fun op rest h => hhost ⟨op, rest, h⟩
      exact (engineMove_fail_sticky (s := { s with agenda := s.agenda.tail }) hinv hraced hfail
        (hmove.symm.trans hstep)).imp id fun h => .inr (.inr h)
  · exact ⟨_, engineMove_illegal (w := l.word) (g := l.regs) (not_exists.mpr hillegal) hbusy hraced hrow, rfl⟩

end Sys2Proof.Machine
end

section
/-!
PROOFS. FR_NEXT parses the chunk that EM_CHUNK emitted (41_chunk_framer.md R139, R152, R159).
-/

namespace Sys2Proof.Machine

/-! ### The fields of a chunk in the memory (30_encoding.md R91) -/

section fields
variable {s : State} {a : Nat}

theorem memRead_split {xs ys : List Byte} {m n : Nat} (h : s.memRead a (m + n) = xs ++ ys) (hm : xs.length = m) :
    s.memRead a m = xs ∧ s.memRead (a + m) n = ys := by
  rw [State.memRead_append] at h
  exact List.append_inj h (by rw [State.memRead_length, hm])

/-- A read chunk is read field by field: length, type, payload and CRC. -/
theorem memRead_chunk_fields {size t p crc : List Byte} {n : Nat} (h : s.memRead a (12 + n) = size ++ t ++ p ++ crc)
    (hsize : size.length = 4) (ht : t.length = 4) (hp : p.length = n) :
    s.memRead a 4 = size ∧ s.memRead (a + 4) 4 = t ∧ s.memRead (a + 8) n = p ∧ s.memRead (a + 8 + n) 4 = crc := by
  rw [show 12 + n = 4 + (4 + (n + 4)) by omega, List.append_assoc, List.append_assoc] at h
  obtain ⟨h1, h⟩ := memRead_split h hsize
  obtain ⟨h2, h⟩ := memRead_split h ht
  obtain ⟨h3, h4⟩ := memRead_split h hp
  exact ⟨h1, h2, h3, h4⟩

end fields

/-- The packed type of a type register is the register (20_memory.md R67). -/
theorem packType_bytesBE4 (v : Word) : packType (bytesBE4 v) = v := by
  rw [packType, beValue_bytesBE4, u32_toNat]

/-- An EM_CHUNK that raised no error has made all its checks. -/
theorem allHold_of_emChunk {s t : State} {l : Latched} (hbusy : s.phase = .busy l) (h : exec .emChunk s = .next t)
    (hok : t.status.err = false) : allHold (emChunkChecks l.regs s) := by
  rcases conclude_next h with ⟨r, -, rfl⟩ | ⟨hchecks, -⟩
  · exact absurd hok nofun
  · exact State.operands_busy hbusy ▸ hchecks

/-- Settles O60: the parser reads the four fields that the emitter wrote. -/
theorem emittedChunkParses : Obligations.EmittedChunkParses := by
  intro s t u l m hbusy hemit hok at0 len hbusy' herr hsig hfail hdone horder hcursor hwhole hlimit hread
  have hchecks := allHold_of_emChunk hbusy hemit hok
  obtain ⟨hlength, hexec⟩ := exec_emChunk_of_checks hbusy rfl hchecks
  obtain rfl := Host.Outcome.next.inj (hexec.symm.trans hemit)
  have haccepts := allHold_acceptChecks.mp (allHold_append.mp hchecks).2
  obtain ⟨hsize, htype, hpayload, hcrc⟩ := memRead_chunk_fields (hread.trans (hlength ▸ memRead_completed_same))
    (bytesBE4_length _) (bytesBE4_length _) (State.memRead_length ..)
  have hat : m.regs.frCursor.toNat = at0 := congrArg BitVec.toNat hcursor
  rw [← hat] at hsize htype hpayload hcrc hwhole ⊢
  have hlen : u.chunkLength m.regs.frCursor.toNat = len := (congrArg beValue hsize).trans (beValue_bytesBE4 _)
  have hintact : beValue (u.memRead (m.regs.frCursor.toNat + 8 + len) 4) =
      (crc32 (u.memRead (m.regs.frCursor.toNat + 4) 4 ++ u.memRead (m.regs.frCursor.toNat + 8) len)).toNat := by
    rw [htype, hpayload, hcrc, beValue_bytesBE4]
  have hnext := exec_frNext_of_checks hbusy' (allHold_frNextChecks hlen hsig hfail hdone hlimit hwhole hintact
    (by rw [horder, htype, hpayload]; exact haccepts)) hlen
  refine ⟨_, hnext, rfl, herr, ?_, u32_toNat l.regs.arg2, rfl, ?_, rfl, hpayload⟩
  · exact (congrArg packType htype).trans (packType_bytesBE4 l.regs.arg0)
  · exact congrArg₂ ChunkOrder.update horder htype

end Sys2Proof.Machine
end

section
/-!
PROOFS. PACK_ROW (42_bit_unpacker.md R175, R176, R180) and its inverse UNPACK_ROW (R181): which sample every bit of a
packed row comes from, whole-byte depths by their slots, then the two statements.
-/

namespace Sys2Proof.Machine

/-! ### Bits, bytes and samples -/

/-- Two byte sequences of one length that agree byte by byte are one. -/
theorem ext_byteAt {xs ys : List Byte} (hlength : xs.length = ys.length)
    (h : ∀ i < ys.length, byteAt xs i = byteAt ys i) : xs = ys := by
  refine List.ext_getElem hlength fun i hx hy => ?_
  simpa [byteAt, hx, hy] using h i hy

/-- A bit of an OR of many is a bit of one of them. -/
theorem testBit_foldl_or (f : Nat → Nat) (c m : Nat) :
    ((List.range c).foldl (fun acc i => acc ||| f i) 0).testBit m = true ↔ ∃ i < c, (f i).testBit m = true := by
  induction c with
  | zero => simp
  | succ c ih =>
    simp only [List.range_succ, List.foldl_append, List.foldl_cons, List.foldl_nil, Nat.testBit_or, Bool.or_eq_true, ih,
      Nat.lt_succ_iff_lt_or_eq, or_and_right, exists_or, exists_eq_left]

theorem mod_two_pow_eq_zero_iff {x p : Nat} : x % 2 ^ p = 0 ↔ ∀ m < p, x.testBit m = false := by
  simp [Nat.eq_iff_testBit_eq, Nat.testBit_mod_two_pow]

theorem getD_lt {d : Nat} {vs : List Nat} (hvs : ∀ v ∈ vs, v < 2 ^ d) (k : Nat) : vs.getD k 0 < 2 ^ d := by
  rcases Nat.lt_or_ge k vs.length with hk | hk
  · rw [List.getD_eq_getElem _ _ hk]
    exact hvs _ (List.getElem_mem hk)
  · rw [List.getD_eq_default _ _ hk]
    exact Nat.two_pow_pos d

theorem getD_unpackSamples (d : Nat) (row : List Byte) (k n : Nat) :
    (unpackSamples d n row).getD k 0 = if k < n then sampleOf d row k else 0 := by
  by_cases hk : k < n <;> simp [unpackSamples, List.getD_eq_getElem?_getD, hk]

/-- Bit `q` of sample `k` of a packed row is a bit of its byte (R176). -/
theorem testBit_sampleOf {d : Nat} (hd : d < 8) (row : List Byte) (k q : Nat) : (sampleOf d row k).testBit q
    = (decide (q < d) && (byteAt row (k * d / 8)).toNat.testBit (8 - d - k * d % 8 + q)) := by
  rw [sampleOf, if_pos hd, Nat.testBit_mod_two_pow, Nat.testBit_shiftRight]

/-! ### The sample behind each bit of a packed row (R176) -/

/-- The index of the sample that bit `m` of byte `j` belongs to, in a packed row of depth `d` < 8: the samples of a byte
stand from its top bits down (R176). -/
def sampleAt (d j m : Nat) : Nat := j * (8 / d) + (7 - m) / d

section bits
variable {d j k m n q rb : Nat} {vs : List Nat} {row : List Byte} (hd : d = 1 ∨ d = 2 ∨ d = 4)
include hd

/-- R176 reads the sample that bit `m` of byte `j` belongs to from byte `j`, and finds there bit `m` as bit `m % d`. -/
theorem sampleAt_place (hm : m < 8) :
    sampleAt d j m * d / 8 = j ∧ 8 - d - sampleAt d j m * d % 8 + m % d = m := by
  unfold sampleAt
  rcases hd with rfl | rfl | rfl <;> omega

/-- The bit of a byte where R176 reads bit `q` of sample `k` belongs to sample `k`, as its bit `q`. -/
theorem place_sampleAt (hq : q < d) :
    8 - d - k * d % 8 + q < 8 ∧ sampleAt d (k * d / 8) (8 - d - k * d % 8 + q) = k
      ∧ (8 - d - k * d % 8 + q) % d = q := by
  unfold sampleAt
  rcases hd with rfl | rfl | rfl <;> omega

/-- In a row of as few bytes as `n` samples need, the bits that belong to none of them are the padding bits: the low
bits of the last byte (R176). -/
theorem le_sampleAt_iff (hbits : n * d ≤ 8 * rb) (hfew : 8 * rb < n * d + 8) (hj : j < rb)
    (hm : m < 8) : n ≤ sampleAt d j m ↔ j = rb - 1 ∧ m < 8 * rb - n * d := by
  unfold sampleAt
  rcases hd with rfl | rfl | rfl <;> omega

section packed
variable (hvs : ∀ v ∈ vs, v < 2 ^ d)
include hvs

/-- Bit `m` of packed byte `j` is a bit of the sample it belongs to. -/
theorem testBit_packedByte (hm : m < 8) :
    (packedByte d vs j).testBit m = (vs.getD (sampleAt d j m) 0).testBit (m % d) := by
  rw [Bool.eq_iff_iff, packedByte, testBit_foldl_or]
  simp only [Nat.testBit_shiftLeft, Bool.and_eq_true, decide_eq_true_eq]
  constructor
  · rintro ⟨i, hi, hle, hbit⟩
    have hlt : m - (8 - d - i * d) < d := by
      by_contra hge
      have := (getD_lt hvs (j * (8 / d) + i)).trans_le (Nat.pow_le_pow_right Nat.two_pos (Nat.le_of_not_lt hge))
      exact Bool.false_ne_true ((Nat.testBit_lt_two_pow this).symm.trans hbit)
    have hsample : sampleAt d j m = j * (8 / d) + i ∧ m % d = m - (8 - d - i * d) := by
      unfold sampleAt
      rcases hd with rfl | rfl | rfl <;> omega
    rwa [hsample.1, hsample.2]
  · intro hbit
    have hplace : (7 - m) / d < 8 / d ∧ 8 - d - (7 - m) / d * d ≤ m ∧ m - (8 - d - (7 - m) / d * d) = m % d := by
      rcases hd with rfl | rfl | rfl <;> omega
    exact ⟨(7 - m) / d, hplace.1, hplace.2.1, hplace.2.2 ▸ hbit⟩

theorem testBit_byteAt_packSamples (hj : j < rb) (hm : m < 8) :
    (byteAt (packSamples d rb vs) j).toNat.testBit m = (vs.getD (sampleAt d j m) 0).testBit (m % d) := by
  rw [packSamples, if_pos (by omega), byteAt_map_range hj, BitVec.toNat_ofNat, Nat.testBit_mod_two_pow,
    decide_eq_true hm, Bool.true_and, testBit_packedByte hd hvs hm]

/-- A row of depth below 8 unpacks to the samples packed into it. -/
theorem sampleOf_packSamples_bits (hk : (k + 1) * d ≤ 8 * rb) :
    sampleOf d (packSamples d rb vs) k = vs.getD k 0 := by
  refine Nat.eq_of_testBit_eq fun q => ?_
  rw [testBit_sampleOf (by omega)]
  by_cases hq : q < d
  · obtain ⟨hlt, hsample, hbit⟩ := place_sampleAt (k := k) hd hq
    have hj : k * d / 8 < rb := by rcases hd with rfl | rfl | rfl <;> omega
    rw [testBit_byteAt_packSamples hd hvs hj hlt, hsample, hbit, decide_eq_true hq, Bool.true_and]
  · have hsmall : vs.getD k 0 < 2 ^ q := (getD_lt hvs k).trans_le (Nat.pow_le_pow_right Nat.two_pos (by omega))
    rw [decide_eq_false hq, Bool.false_and, Nat.testBit_lt_two_pow hsmall]

/-- The bits of a packed row past its last sample are 0 (R180). -/
theorem padding_packSamples_bits (hbits : vs.length * d ≤ 8 * rb)
    (hfew : 8 * rb < vs.length * d + 8) (hrb : 0 < rb) :
    (byteAt (packSamples d rb vs) (rb - 1)).toNat % 2 ^ (8 * rb - vs.length * d) = 0 := by
  refine mod_two_pow_eq_zero_iff.mpr fun m hm => ?_
  have hlast : rb - 1 < rb := by omega
  have hm8 : m < 8 := by omega
  have hpast := (le_sampleAt_iff hd hbits hfew hlast hm8).mpr ⟨rfl, hm⟩
  rw [testBit_byteAt_packSamples hd hvs hlast hm8, List.getD_eq_default _ _ hpast, Nat.zero_testBit]

end packed

/-- A row of depth below 8 whose padding is 0 is the packed row of its samples (R181). -/
theorem packSamples_unpackSamples_bits (hbits : n * d ≤ 8 * rb) (hfew : 8 * rb < n * d + 8)
    (hlength : row.length = rb)
    (hpad : 0 < rb → (byteAt row (rb - 1)).toNat % 2 ^ (8 * rb - n * d) = 0) :
    packSamples d rb (unpackSamples d n row) = row := by
  have hvs : ∀ v ∈ unpackSamples d n row, v < 2 ^ d := by
    intro v hv
    obtain ⟨k, -, rfl⟩ := List.mem_map.mp hv
    exact sampleOf_lt (by omega) row k
  refine ext_byteAt ?_ fun j hj => ?_
  · rw [packSamples, if_pos (by omega)]
    simp [hlength]
  refine BitVec.eq_of_getLsbD_eq fun m hm => ?_
  have hj : j < rb := hlength ▸ hj
  obtain ⟨hbyte, hbit⟩ := sampleAt_place (j := j) hd hm
  calc (byteAt (packSamples d rb (unpackSamples d n row)) j).toNat.testBit m
      = ((unpackSamples d n row).getD (sampleAt d j m) 0).testBit (m % d) := testBit_byteAt_packSamples hd hvs hj hm
    _ = (byteAt row j).toNat.testBit m := ?_
  rw [getD_unpackSamples]
  split_ifs with hn
  · have hmod : m % d < d := Nat.mod_lt _ (by omega)
    rw [testBit_sampleOf (by omega), hbyte, hbit, decide_eq_true hmod, Bool.true_and]
  · obtain ⟨rfl, hm⟩ := (le_sampleAt_iff hd hbits hfew hj hm).mp (Nat.le_of_not_lt hn)
    rw [Nat.zero_testBit, mod_two_pow_eq_zero_iff.mp (hpad (by omega)) m hm]

end bits

/-! ### Depths of whole bytes -/

section bytes
variable {n sw : Nat} {h : Header}

/-- At a depth of whole bytes a packed row is an unpacked one (R175, R176). -/
theorem packSamples_whole (hd : h.bitDepth = 8 ∨ h.bitDepth = 16) (rb : Nat) (vs : List Nat) :
    packSamples h.bitDepth rb vs = slotBytes h.sampleWidth vs := by
  rcases hd with hd | hd <;> simp only [packSamples, slotBytes, Header.sampleWidth, hd]
  · exact List.map_eq_flatMap
  · rfl

theorem sampleOf_whole (hd : h.bitDepth = 8 ∨ h.bitDepth = 16) : sampleOf h.bitDepth = slotSample h.sampleWidth := by
  rcases hd with hd | hd <;> funext row k <;> simp [sampleOf, slotSample, Header.sampleWidth, hd]

theorem slotSamples_succ (hsw : sw = 1 ∨ sw = 2) (n : Nat) (bs : List Byte) :
    slotSamples sw (n + 1) bs = slotSample sw bs 0 :: slotSamples sw n (bs.drop sw) := by
  simp only [slotSamples, List.range_succ_eq_map, List.map_cons, List.map_map]
  refine congrArg _ (List.map_congr_left fun k _ => ?_)
  rcases hsw with rfl | rfl <;> simp [slotSample, byteAt, Nat.mul_add, Nat.add_comm, Nat.add_left_comm]

/-- A sample's slot holds the bytes it was read from. -/
theorem sampleSlot_slotSample (hsw : sw = 1 ∨ sw = 2) {bs : List Byte} (hlength : sw ≤ bs.length) :
    sampleSlot sw (slotSample sw bs 0) = bs.take sw := by
  rcases hsw with rfl | rfl
  · obtain ⟨b, bs, rfl⟩ := List.exists_cons_of_length_pos hlength
    simp [sampleSlot, slotSample, byteAt]
  · obtain ⟨b, _ | ⟨c, bs⟩, rfl⟩ := List.exists_cons_of_length_pos (Nat.two_pos.trans_le hlength)
    · exact absurd hlength (Nat.not_succ_le_self 1)
    · have hb : BitVec.ofNat 8 ((b.toNat * 256 + c.toNat) / 256) = b := by bv_omega
      have hc : BitVec.ofNat 8 (b.toNat * 256 + c.toNat) = c := by bv_omega
      simp [sampleSlot, slotSample, byteAt, hb, hc]

/-- Writing the samples of an unpacked row back to their slots gives the row. -/
theorem slotBytes_slotSamples (hsw : sw = 1 ∨ sw = 2) {bs : List Byte} (hlength : bs.length = n * sw) :
    slotBytes sw (slotSamples sw n bs) = bs := by
  induction n generalizing bs with
  | zero =>
    obtain rfl : bs = [] := List.length_eq_zero_iff.mp (by omega)
    rfl
  | succ n ih =>
    rw [Nat.succ_mul] at hlength
    have htail : slotBytes sw (slotSamples sw n (bs.drop sw)) = bs.drop sw := ih (by rw [List.length_drop]; omega)
    rw [slotBytes] at htail
    rw [slotSamples_succ hsw, slotBytes, List.flatMap_cons, htail, sampleSlot_slotSample hsw (by omega),
      List.take_append_drop]

end bytes

/-! ### Every legal depth -/

section rows
variable {h : Header} {k w : Nat} {vs : List Nat} {row : List Byte}

/-- A row has no more bytes than its samples need (R173, R174). -/
theorem rowBytes_bits_lt (h : Header) (w : Nat) : 8 * h.rowBytes w < h.samples w * h.bitDepth + 8 := by
  have hbits : h.samples w * h.bitDepth = h.bitDepth * h.channels * w := by
    rw [Header.samples]
    ring
  rw [hbits, Header.rowBytes, ceilDiv]
  omega

theorem bits_or_whole (hfmt : h.fmtValid = true) :
    (h.bitDepth = 1 ∨ h.bitDepth = 2 ∨ h.bitDepth = 4) ∨ (h.bitDepth = 8 ∨ h.bitDepth = 16) := by
  simpa only [or_assoc] using depth_of_fmtValid hfmt

/-- Sample `k` of a packed row is the sample packed into it (R180, R181). -/
theorem sampleOf_packSamples (hfmt : h.fmtValid = true) (hlength : vs.length = h.samples w)
    (hvs : ∀ v ∈ vs, v < 2 ^ h.bitDepth) (hk : k < h.samples w) :
    sampleOf h.bitDepth (packSamples h.bitDepth (h.rowBytes w) vs) k = vs.getD k 0 := by
  rcases bits_or_whole hfmt with hd | hd
  · exact sampleOf_packSamples_bits hd hvs ((Nat.mul_le_mul_right _ hk).trans (samples_bits_le h w))
  · rw [packSamples_whole hd, sampleOf_whole hd]
    refine slotSample_slotBytes (hlength ▸ hk) fun v hv => ?_
    have := hvs v hv
    rcases hd with hd | hd <;> simpa [Header.sampleWidth, hd] using this

theorem padding_packSamples (hfmt : h.fmtValid = true) (hlength : vs.length = h.samples w)
    (hvs : ∀ v ∈ vs, v < 2 ^ h.bitDepth) (hrb : 0 < h.rowBytes w) :
    (byteAt (packSamples h.bitDepth (h.rowBytes w) vs) (h.rowBytes w - 1)).toNat
      % 2 ^ (8 * h.rowBytes w - h.samples w * h.bitDepth) = 0 := by
  have hbits := samples_bits_le h w
  have hfew := rowBytes_bits_lt h w
  rcases bits_or_whole hfmt with hd | hd
  · rw [← hlength] at *
    exact padding_packSamples_bits hd hvs hbits hfew hrb
  · have hnone : 8 * h.rowBytes w - h.samples w * h.bitDepth = 0 := by
      rcases hd with hd | hd <;> rw [hd] at hbits hfew ⊢ <;> omega
    rw [hnone]
    exact Nat.mod_one _

/-- A validly padded row is the packed row of its samples (R181). -/
theorem packSamples_unpackSamples (hfmt : h.fmtValid = true) (hlength : row.length = h.rowBytes w)
    (hpad : 0 < h.rowBytes w →
      (byteAt row (h.rowBytes w - 1)).toNat % 2 ^ (8 * h.rowBytes w - h.samples w * h.bitDepth) = 0) :
    packSamples h.bitDepth (h.rowBytes w) (unpackSamples h.bitDepth (h.samples w) row) = row := by
  rcases bits_or_whole hfmt with hd | hd
  · exact packSamples_unpackSamples_bits hd (samples_bits_le h w) (rowBytes_bits_lt h w) hlength hpad
  · rw [packSamples_whole hd, unpackSamples, sampleOf_whole hd]
    refine slotBytes_slotSamples ?_ (hlength.trans (rowBytes_of_whole hd))
    rcases hd with hd | hd <;> simp [Header.sampleWidth, hd]

/-- Samples in range are the samples of their packed row (R181). -/
theorem unpackSamples_packSamples (hfmt : h.fmtValid = true) (hlength : vs.length = h.samples w)
    (hvs : ∀ v ∈ vs, v < 2 ^ h.bitDepth) :
    unpackSamples h.bitDepth (h.samples w) (packSamples h.bitDepth (h.rowBytes w) vs) = vs := by
  refine List.ext_getElem (by rw [unpackSamples_length, hlength]) fun k hk hk' => ?_
  have hsample := sampleOf_packSamples hfmt hlength hvs (hlength ▸ hk')
  rw [List.getD_eq_getElem _ _ hk'] at hsample
  simpa [unpackSamples] using hsample

end rows

/-- Settles O57: bit by bit below a depth of 8, slot by slot from 8 up. -/
theorem packUnpackRoundTrip : Obligations.PackUnpackRoundTrip := by
  intro h w hfmt d rb n
  exact ⟨fun _ => packSamples_unpackSamples hfmt, fun _ => unpackSamples_packSamples hfmt⟩

/-! ### PACK_ROW (R180) -/

/-- PACK_ROW whose checks hold writes the packed row of the samples it read (R180). -/
theorem exec_packRow_of_checks {s : State} {l : Latched} (hbusy : s.phase = .busy l) :
    let o := l.regs
    let h := o.hdr
    let n := h.samples o.arg2.toNat
    let rb := h.rowBytes o.arg2.toNat
    let vs := slotSamples h.sampleWidth n (s.memRead o.arg0.toNat (n * h.sampleWidth))
    h.fmtValid = true → 1 + rb ≤ u32Max → n * h.sampleWidth ≤ u32Max → RangesFit .packRow o s →
    RangesApart .packRow o s → (∀ v ∈ vs, v < 2 ^ h.bitDepth) →
      exec .packRow s = .next (s.completed (Memory.writeBytes s.mem o.arg1.toNat (packSamples h.bitDepth rb vs)) s.regs
        (u32 rb) (u32 n) 0 0) := by
  intro o h n rb vs hfmt hrow hsamples hfit hapart hvs
  have hinRange : allHold (sampleChecks h.bitDepth h.sampleWidth vs) := by
    intro c hc
    obtain ⟨⟨v, k⟩, hv, rfl⟩ := List.mem_map.mp hc
    exact decide_eq_true (hvs v (List.fst_mem_of_mem_zipIdx hv))
  have hchecks := allHold_append.mpr ⟨allHold_append.mpr
    ⟨allHold_rowChecks hfmt hrow hsamples, allHold_rangeChecks.mpr ⟨hfit, hapart⟩⟩, hinRange⟩
  simp only [exec, execPackRow, State.operands_busy hbusy]
  rw [conclude_pass hchecks, write_completed]

/-- Settles O21: slot `k` gives sample `k`, and packing keeps the samples and zeroes the padding. -/
theorem packRowWrites : Obligations.PackRowWrites := by
  intro s l hbusy o h rb n sw hfmt hrow hsamples hfit hapart hsmall
  have hslot {k : Nat} (hk : k < n) : slotSample sw (s.memRead o.arg0.toNat (n * sw)) k
      = beValue (s.memRead (o.arg0.toNat + k * sw) sw) := slotSample_memRead hk
  let vs := slotSamples sw n (s.memRead o.arg0.toNat (n * sw))
  have hn : vs.length = n := slotSamples_length ..
  have hvs : ∀ v ∈ vs, v < 2 ^ h.bitDepth := by
    intro v hv
    obtain ⟨k, hk, rfl⟩ := List.mem_map.mp hv
    have hk : k < n := List.mem_range.mp hk
    exact (hslot hk).trans_lt (hsmall k hk)
  have hlength := packSamples_length hfmt hn
  refine ⟨_, exec_packRow_of_checks hbusy hfmt hrow hsamples hfit hapart hvs, rfl,
    sameOutside_completed_of_length hlength, fun k hk => ?_, fun hrb => ?_⟩
  · calc sampleOf h.bitDepth _ k = sampleOf h.bitDepth (packSamples h.bitDepth rb vs) k :=
          congrArg (sampleOf h.bitDepth · k) ((congrArg _ hlength.symm).trans memRead_completed_same)
      _ = vs.getD k 0 := sampleOf_packSamples hfmt hn hvs hk
      _ = slotSample sw (s.memRead o.arg0.toNat (n * sw)) k := by simp [vs, slotSamples, hk]
      _ = _ := hslot hk
  · have hlast : rb - 1 < (packSamples h.bitDepth rb vs).length := hlength.symm ▸ Nat.sub_lt hrb Nat.one_pos
    rw [Nat.add_sub_assoc (show 1 ≤ rb from hrb), readByte_completed_inside hlast]
    exact padding_packSamples hfmt hn hvs hrb

end Sys2Proof.Machine
end

section
/-!
PROOFS. IMGLEN (42_bit_unpacker.md R178): the contributing passes as a sum over the pass list; then the statement.
-/

namespace Sys2Proof.Machine

/-- A sum over the contributing passes is one over the pass list in which a skipped pass counts 0 (R221). -/
theorem sum_map_passRows (h : Header) (f : Nat × Nat → Nat) :
    (h.passRows.map f).sum = ((passList h.interlace).map fun p =>
      if (h.passDims p).1 = 0 ∨ (h.passDims p).2 = 0 then 0
      else f (h.rowBytes (h.passDims p).1, (h.passDims p).2)).sum := by
  simp only [Header.passRows, Header.passDims, Bool.or_eq_true, decide_eq_true_eq]
  induction passList h.interlace with
  | nil => rfl
  | cons p ps ih =>
    by_cases hskip :
        (passDims p h.width.toNat h.height.toNat).1 = 0 ∨ (passDims p h.width.toNat h.height.toNat).2 = 0 <;>
      simp [hskip, ih]

/-- Settles O19: the checks hold, and each result is a sum over the contributing passes. -/
theorem imglenReports : Obligations.ImglenReports := by
  intro s l hbusy h passes pw ph sumOver rb bigS himage hfits
  have hsum (f : Nat × Nat → Nat) : (h.passRows.map f).sum = sumOver fun p => f (rb p, ph p) := sum_map_passRows h f
  have hfiltered : filteredBytes h.passRows = bigS := hsum fun p => p.2 * (1 + p.1)
  have hraw : rawBytes h.passRows = sumOver fun p => ph p * rb p := hsum fun p => p.2 * p.1
  have hlines : scanlines h.passRows = sumOver fun p => ph p := hsum fun p => p.2
  have hpasses : h.passRows.length = sumOver fun _ => 1 := by
    rw [← hsum fun _ => 1]
    simp
  have hchecks : allHold [imageCheck h, imageFitsCheck h] := by
    simpa [allHold, imageCheck, imageFitsCheck] using
      ⟨himage, imageFits_of_filteredBytes (hfiltered.trans_le hfits)⟩
  simp only [exec, execImglen, State.operands_busy hbusy]
  rw [conclude_pass hchecks, hfiltered, hraw, hlines, hpasses]
  rfl

end Sys2Proof.Machine
end

section
/-!
PROOFS. The filter engine (43_filter_engine.md): UNFILTER_ROW (R206), the selection of AUTO (R204), and that
reconstruction undoes filtering, for a row and for an image (R210).
-/

namespace Sys2Proof.Machine

/-! ### UNFILTER_ROW (R206) -/

section unfilterRow
variable {s : State} {l : Latched}

theorem typeByteCheck_code (t : FilterType) (off : Nat) : (typeByteCheck t.code off).holds = true := by
  rw [typeByteCheck, filterTypeOf_code, Option.isSome_some]

@[simp] theorem typeOfByte_code (t : FilterType) : typeOfByte t.code = t := by
  rw [typeOfByte, filterTypeOf_code, Option.getD_some]

/-- UNFILTER_ROW whose checks hold writes the row it reconstructs, and reports its type and length (R206). -/
theorem exec_unfilterRow_of_checks (hbusy : s.phase = .busy l) {zp : Bool} {t : FilterType} :
    let o := l.regs
    let h := o.hdr
    let rb := h.rowBytes o.arg3.toNat
    let recon := unfilterBytes t h.bpp (s.memRead (o.arg0.toNat + 1) rb) (s.priorRow o zp rb)
    h.fmtValid = true → 1 + rb ≤ u32Max → RangesFit (.unfilterRow zp) o s → RangesApart (.unfilterRow zp) o s →
    s.readByte o.arg0.toNat = t.code →
      ∃ u, exec (.unfilterRow zp) s = .next u
        ∧ u = s.completed u.mem s.regs (t.code.setWidth 32) (u32 rb) 0 0
        ∧ SameOutside s u ⟨o.arg1.toNat, rb⟩
        ∧ ∀ i < rb, u.readByte (o.arg1.toNat + i) = byteAt recon i := by
  intro o h rb recon hfmt hlen hfit hapart htype
  have hchecks : allHold ([fmtCheck h, filteredRowFitsCheck h o.arg3.toNat] ++ rangeChecks (.unfilterRow zp) o s
      ++ [typeByteCheck t.code 0]) :=
    allHold_append.mpr ⟨allHold_append.mpr
      ⟨allHold_filteredRowChecks hfmt hlen, allHold_rangeChecks.mpr ⟨hfit, hapart⟩⟩,
      List.forall_mem_singleton.mpr (typeByteCheck_code t 0)⟩
  have hlength : recon.length = rb := by simp [recon]
  have hexec : exec (.unfilterRow zp) s = .next (s.completed (Memory.writeBytes s.mem o.arg1.toNat recon) s.regs
      (t.code.setWidth 32) (u32 rb) 0 0) := by
    simp only [exec, execUnfilterRow, State.operands_busy hbusy]
    rw [htype, conclude_pass hchecks, typeOfByte_code, write_completed]
  exact ⟨_, hexec, eq_completed_mem .., sameOutside_completed_of_length hlength,
    fun i hi => readByte_completed_inside (hlength.symm ▸ hi)⟩

end unfilterRow

/-- A pixel has at least one byte (42_bit_unpacker.md R172). -/
theorem Header.one_le_bpp (h : Header) : 1 ≤ h.bpp := le_max_left ..

theorem byteAt_priorRow {s : State} {o : OperandRegs} {zp : Bool} {n i : Nat} (hi : i < n) :
    byteAt (s.priorRow o zp n) i = s.priorByte o zp i := by
  rw [State.priorRow_eq_map, byteAt_map_range hi]

/-- Settles O33: every check holds, and the written bytes obey the recursion of R194-R198. -/
theorem rowIsReconstructed : Obligations.RowIsReconstructed := by
  intro s l zp t hbusy o h rb prior pred hfmt hlen hfit hapart htype
  have hpred : pred = predictor t := by cases t <;> rfl
  have hprior : prior = s.priorByte o zp := rfl
  obtain ⟨u, hexec, hu, houtside, hbyte⟩ := exec_unfilterRow_of_checks hbusy hfmt hlen hfit hapart htype
  refine ⟨u, hexec, hu, houtside, fun i hi => ?_⟩
  have hupto {j : Nat} (hj : j ≤ i) : j < rb := hj.trans_lt hi
  rw [hpred, hprior, neighbour_congr fun j hj => hbyte j (hupto hj), hbyte i hi,
    byteAt_unfilterBytes h.one_le_bpp ((State.memRead_length ..).symm ▸ hi), byteAt_memRead hi, byteAt_priorRow hi,
    neighbour_congr fun j hj => byteAt_priorRow (hupto hj)]

/-! ### AUTO (R204) -/

/-- Type `t` is preferred to `u`, or is `u`: a smaller score, or the same one and no higher code. -/
def Preferred (bpp : Nat) (raw prior : List Byte) (t u : FilterType) : Prop :=
  let score := fun t => filterScore (filterBytes t bpp raw prior)
  score t ≤ score u ∧ (score u = score t → t.code.toNat ≤ u.code.toNat)

section auto
variable {bpp : Nat} {raw prior : List Byte} {best t u v : FilterType} {ts : List FilterType}

theorem Preferred.refl : Preferred bpp raw prior t t := ⟨le_rfl, fun _ => le_rfl⟩

theorem Preferred.trans (htu : Preferred bpp raw prior t u) (huv : Preferred bpp raw prior u v) :
    Preferred bpp raw prior t v := by
  obtain ⟨hscore, hcode⟩ := htu
  obtain ⟨hscore', hcode'⟩ := huv
  exact ⟨hscore.trans hscore', fun heq => (hcode (by omega)).trans (hcode' (by omega))⟩

/-- Of two types in the order of their codes, the fold goes on with the preferred one. -/
theorem betterType_preferred (hcode : best.code.toNat < t.code.toNat) :
    let found := betterType bpp raw prior best t
    (found = best ∨ found = t) ∧ Preferred bpp raw prior found best ∧ Preferred bpp raw prior found t := by
  simp only [betterType]
  split_ifs with hless
  · exact ⟨.inr rfl, ⟨hless.le, fun heq => absurd heq hless.ne'⟩, .refl⟩
  · exact ⟨.inl rfl, .refl, ⟨not_lt.mp hless, fun _ => hcode.le⟩⟩

/-- The fold over types in the order of their codes finds the preferred one of them all. -/
theorem foldl_betterType_preferred (hsorted : (best :: ts).Pairwise fun t u => t.code.toNat < u.code.toNat) :
    ∀ t ∈ best :: ts, Preferred bpp raw prior (ts.foldl (betterType bpp raw prior) best) t := by
  induction ts generalizing best with
  | nil => exact List.forall_mem_singleton.mpr .refl
  | cons u us ih =>
    obtain ⟨hbest, hus⟩ := List.pairwise_cons.mp hsorted
    obtain ⟨hlater, hsorted⟩ := List.pairwise_cons.mp hus
    obtain ⟨hfound, hkept, hnext⟩ := betterType_preferred (bpp := bpp) (raw := raw) (prior := prior)
      (hbest u (List.mem_cons_self ..))
    have hrest : ∀ v ∈ us, (betterType bpp raw prior best u).code.toNat < v.code.toNat := by
      rcases hfound with h | h
      · exact h.symm ▸ fun v hv => hbest v (List.mem_cons_of_mem _ hv)
      · exact h.symm ▸ hlater
    obtain ⟨hwinner, hall⟩ := List.forall_mem_cons.mp (ih (List.pairwise_cons.mpr ⟨hrest, hsorted⟩))
    exact List.forall_mem_cons.mpr
      ⟨hwinner.trans hkept, List.forall_mem_cons.mpr ⟨hwinner.trans hnext, hall⟩⟩

end auto

/-- Settles O49: the fold goes through all five types in the order of their codes. -/
theorem autoSelection : Obligations.AutoSelection := by
  intro bpp raw prior t
  have hall : t ∈ [FilterType.none, .sub, .up, .average, .paeth] := by cases t <;> decide
  exact foldl_betterType_preferred (by decide) t hall

/-! ### Rows (R210) -/

/-- The left neighbour lies strictly before the byte (R190). -/
theorem neighbour_congr_of_lt {bpp i : Nat} {f g : Nat → Byte} (hbpp : 1 ≤ bpp) (h : ∀ j < i, f j = g j) :
    neighbour bpp i f = neighbour bpp i g := by
  unfold neighbour
  split_ifs
  · exact h _ (by omega)
  · rfl

/-- Reconstruction adds the prediction that filtering took off: the bytes before it are already the row's own. -/
theorem byteAt_unfilterBytes_filterBytes {t : FilterType} {bpp : Nat} {row prior : List Byte} (hbpp : 1 ≤ bpp) (i : Nat)
    (hi : i < row.length) : byteAt (unfilterBytes t bpp (filterBytes t bpp row prior) prior) i = byteAt row i := by
  induction i using Nat.strong_induction_on with
  | _ i ih =>
    rw [byteAt_unfilterBytes hbpp (by simpa using hi), neighbour_congr_of_lt hbpp fun j hj => ih j hj (hj.trans hi),
      byteAt_filterBytes hi, BitVec.sub_add_cancel]

/-- The row law of R210. -/
theorem unfilterBytes_filterBytes {bpp : Nat} (hbpp : 1 ≤ bpp) (t : FilterType) (row prior : List Byte) :
    unfilterBytes t bpp (filterBytes t bpp row prior) prior = row :=
  ext_byteAt (by simp) (byteAt_unfilterBytes_filterBytes hbpp)

/-- Settles O55: byte by byte, the prediction is added that was taken off. -/
theorem filterRoundTrip : Obligations.FilterRoundTrip :=
  fun t _ row prior hbpp _ => unfilterBytes_filterBytes hbpp t row prior

/-! ### Images (R208-R210) -/

section image
variable {bpp rb n : Nat} {ft : BitVec 3} {prior src : List Byte} {ps rest : List (Nat × Nat)}

/-- A scanline that FILTER_IMAGE wrote is the row again, whatever the type FT selected (R210). -/
theorem WalkKind.scanOut_scanOut (hbpp : 1 ≤ bpp) (raw : List Byte) :
    WalkKind.unfilter.scanOut bpp prior ((WalkKind.filter ft).scanOut bpp prior raw) = raw := by
  let t := selectType ft bpp raw prior
  calc WalkKind.unfilter.scanOut bpp prior (t.code :: filterBytes t bpp raw prior)
      = unfilterBytes (typeOfByte t.code) bpp (filterBytes t bpp raw prior) prior := rfl
    _ = raw := by rw [typeOfByte_code, unfilterBytes_filterBytes hbpp]

/-- FILTER_IMAGE takes the next row off the raw image and puts its scanline in front of what it makes of the rest. -/
theorem WalkKind.remaining_filter_succ (bpp : Nat) (ft : BitVec 3) (prior : List Byte)
    (hsrc : src.length = (n + 1) * rb + rawBytes rest) :
    ∃ raw later, src = raw ++ later ∧ later.length = n * rb + rawBytes rest
      ∧ ((WalkKind.filter ft).scanOut bpp prior raw).length = 1 + rb
      ∧ (WalkKind.filter ft).remaining bpp rb (n + 1) prior rest src
        = (WalkKind.filter ft).scanOut bpp prior raw ++ (WalkKind.filter ft).remaining bpp rb n raw rest later := by
  have hsrc : src.length = rb + (n * rb + rawBytes rest) := by rw [hsrc]; ring
  exact ⟨src.take rb, src.drop rb, (List.take_append_drop rb src).symm, by rw [List.length_drop]; omega,
    WalkKind.written_length (show (src.take rb).length = rb by simp [hsrc]), WalkKind.remaining_succ src⟩

/-- What is left of an image by FILTER_IMAGE is reconstructed by what is left of UNFILTER_IMAGE. -/
theorem WalkKind.remaining_remaining (hbpp : 1 ≤ bpp)
    (hrest : ∀ src, src.length = rawBytes rest → unfilterStream bpp rest (filterStream ft bpp rest src) = src)
    (hsrc : src.length = n * rb + rawBytes rest) :
    WalkKind.unfilter.remaining bpp rb n prior rest ((WalkKind.filter ft).remaining bpp rb n prior rest src) = src := by
  induction n generalizing prior src with
  | zero =>
    rw [WalkKind.remaining_zero, WalkKind.remaining_zero]
    exact hrest src (by omega)
  | succ n ih =>
    obtain ⟨raw, later, rfl, hlater, hscan, hsplit⟩ := WalkKind.remaining_filter_succ bpp ft prior hsrc
    rw [hsplit, WalkKind.remaining_succ, WalkKind.taken, List.take_left' hscan, List.drop_left' hscan,
      WalkKind.scanOut_scanOut hbpp]
    exact congrArg (raw ++ ·) (ih hlater)

/-- The image law of R210, on byte sequences. -/
theorem unfilterStream_filterStream (hbpp : 1 ≤ bpp) (hsrc : src.length = rawBytes ps) :
    unfilterStream bpp ps (filterStream ft bpp ps src) = src := by
  induction ps generalizing src with
  | nil => exact (List.length_eq_zero_iff.mp hsrc).symm
  | cons p ps ih => exact WalkKind.remaining_remaining hbpp (fun _ => ih) hsrc

/-- Every type byte of what is left of FILTER_IMAGE is one (R205). -/
theorem filterTypeOf_remaining
    (hrest : ∀ src, src.length = rawBytes rest →
      ∀ so ∈ typeOffsets rest 0, (filterTypeOf (byteAt (filterStream ft bpp rest src) so)).isSome = true)
    (hsrc : src.length = n * rb + rawBytes rest) :
    ∀ so ∈ typeOffsets ((rb, n) :: rest) 0,
      (filterTypeOf (byteAt ((WalkKind.filter ft).remaining bpp rb n prior rest src) so)).isSome = true := by
  induction n generalizing prior src with
  | zero =>
    intro so hso
    rw [WalkKind.remaining_zero]
    exact hrest src (by omega) so (by simpa [typeOffsets] using hso)
  | succ n ih =>
    obtain ⟨raw, later, -, hlater, hscan, hsplit⟩ := WalkKind.remaining_filter_succ bpp ft prior hsrc
    rw [hsplit, typeOffsets_succ]
    refine List.forall_mem_cons.mpr ⟨typeByteCheck_code (selectType ft bpp raw prior) 0, fun so hso => ?_⟩
    obtain ⟨next, hnext, rfl⟩ := List.mem_map.mp hso
    rw [← hscan, byteAt, List.getD_append_right _ _ _ _ (Nat.le_add_right ..), Nat.add_sub_cancel_left]
    exact ih hlater next hnext

/-- Every type byte of a filtered image stream is one (R205, R209). -/
theorem filterTypeOf_filterStream (hsrc : src.length = rawBytes ps) :
    ∀ so ∈ typeOffsets ps 0, (filterTypeOf (byteAt (filterStream ft bpp ps src) so)).isSome = true := by
  induction ps generalizing src with
  | nil => nofun
  | cons p ps ih => exact filterTypeOf_remaining (fun _ => ih) hsrc

end image

/-- An image command that raised no error has made all its checks. -/
theorem allHold_of_exec_image {s t : State} {l : Latched} {k : WalkKind} (hbusy : s.phase = .busy l)
    (h : exec k.instr s = .next t) (hok : t.status.err = false) : allHold (k.checks l.regs s) := by
  rw [exec_image hbusy] at h
  rcases conclude_next h with ⟨r, -, rfl⟩ | ⟨hchecks, -⟩
  · exact absurd hok nofun
  · exact hchecks

/-- The header and the sizes FILTER_IMAGE has checked pass the same checks of UNFILTER_IMAGE (R208, R209). -/
theorem allHold_imageChecks_of_filterImage {s : State} {o : OperandRegs} {ft : BitVec 3} {len : Nat}
    (h : allHold (filterImageChecks ft o s)) :
    allHold [imageCheck o.hdr, imageFitsCheck o.hdr, dataLengthCheck len len] := by
  obtain ⟨-, hheader⟩ := allHold_cons.mp (allHold_append.mp h).1
  obtain ⟨himage, hsizes⟩ := allHold_cons.mp hheader
  obtain ⟨hfits, -⟩ := allHold_cons.mp hsizes
  exact allHold_cons.mpr
    ⟨himage, allHold_cons.mpr ⟨hfits, List.forall_mem_singleton.mpr (beq_self_eq_true len)⟩⟩

/-- A filtered image stream in the memory passes the checks of its type bytes (R205, R208). -/
theorem allHold_typeByteChecks {u : State} {a bpp : Nat} {ps : List (Nat × Nat)} {ft : BitVec 3} {image : List Byte}
    (hlength : image.length = rawBytes ps) (hread : u.memRead a (filteredBytes ps) = filterStream ft bpp ps image) :
    allHold ((typeOffsets ps 0).map fun so => typeByteCheck (u.readByte (a + so)) so) := by
  intro c hc
  obtain ⟨so, hso, rfl⟩ := List.mem_map.mp hc
  have hlt : so < filteredBytes ps := by simpa using lt_filteredBytes_of_mem_typeOffsets hso
  rw [← byteAt_memRead hlt, hread]
  exact filterTypeOf_filterStream hlength so hso

/-- Settles O56: the stream that is read has the type bytes FILTER_IMAGE wrote, so every check holds, and the rows are
the raw ones. -/
theorem imageRoundTrip : Obligations.ImageRoundTrip := by
  intro s t u l m ft ps hbusy hfilter hok hbusy' herr hhdr hlen hread hfit hapart
  have hchecks := allHold_of_exec_image (k := .filter ft) hbusy hfilter hok
  obtain ⟨filtered, hexec, -, hwritten, -⟩ := exec_image_of_checks hbusy hchecks
  obtain rfl := Host.Outcome.next.inj (hexec.symm.trans hfilter)
  have hsrc : (s.memRead l.regs.arg0.toNat (rawBytes ps)).length = rawBytes ps := State.memRead_length ..
  have hstream := hread.trans hwritten
  have hps : m.regs.hdr.passRows = ps := congrArg Header.passRows hhdr
  have hearly : allHold [imageCheck m.regs.hdr, imageFitsCheck m.regs.hdr,
      dataLengthCheck m.regs.arg2.toNat (filteredBytes ps)] := by
    rw [hhdr, hlen]
    exact allHold_imageChecks_of_filterImage hchecks
  have hbytes := allHold_typeByteChecks hsrc hstream
  obtain ⟨v, hunfilter, hv, hrows, -⟩ := exec_image_of_checks (k := .unfilter) hbusy' (allHold_append.mpr
    ⟨allHold_append.mpr ⟨hps ▸ hearly, allHold_rangeChecks.mpr ⟨hfit, hapart⟩⟩, hps ▸ hbytes⟩)
  have hstatus := congrArg State.status hv
  refine ⟨v, hunfilter, (congrArg Status.done hstatus).trans rfl, (congrArg Status.err hstatus).trans herr, ?_⟩
  simp only [WalkKind.madeAll, WalkKind.takenAll, WalkKind.imageOut, hps, hstream] at hrows
  rw [hrows, hhdr]
  exact unfilterStream_filterStream l.regs.hdr.one_le_bpp hsrc

end Sys2Proof.Machine
end

section
/-!
PROOFS. The Adam7 mapper (44_adam7.md): on one axis, the grid points of a pass and their number (R220, R221); the one
pass that holds a pixel (R224, R229); then A7_DIMS, A7_MAP, A7_INV (R222-R224) and the partition law (R225).
-/

namespace Sys2Proof.Machine

/-! ### One axis -/

section axis
variable {k n size start stride x : Nat}

/-- A number counts a point of the grid when its point lies below the size. -/
theorem lt_gridPoints_iff (hstride : 0 < stride) : k < gridPoints size start stride ↔ start + k * stride < size := by
  unfold gridPoints
  split_ifs
  · rw [← Nat.add_one_le_iff, Nat.le_div_iff_mul_le hstride, Nat.succ_mul]
    omega
  · omega

/-- The grid points are the strides, rounded up, that the axis has from the start on. -/
theorem gridPoints_start_add (hstride : 0 < stride) (d : Nat) :
    gridPoints (start + d) start stride = (d + stride - 1) / stride := by
  unfold gridPoints
  split_ifs
  · rw [Nat.add_sub_cancel_left]
  · rw [Nat.div_eq_of_lt (by omega)]

/-- One more place on the axis is one more grid point, or none. -/
theorem gridPoints_succ (hstride : 0 < stride) : gridPoints (n + 1) start stride
    = gridPoints n start stride + if start ≤ n ∧ (n - start) % stride = 0 then 1 else 0 := by
  rcases lt_or_ge n start with hbefore | hfrom
  · simp [gridPoints, hbefore.not_ge, hbefore.le]
  · obtain ⟨d, rfl⟩ := Nat.exists_eq_add_of_le hfrom
    have hpoint : stride ∣ d + stride - 1 + 1 ↔ start ≤ start + d ∧ (start + d - start) % stride = 0 := by
      rw [Nat.sub_add_cancel (by omega), Nat.dvd_add_self_right, Nat.dvd_iff_mod_eq_zero]
      simp
    have hround : d + 1 + stride - 1 = d + stride - 1 + 1 := by omega
    rw [Nat.add_assoc, gridPoints_start_add hstride, gridPoints_start_add hstride, hround, Nat.succ_div]
    simp only [hpoint]

/-- PassDims counts the grid points below the size (R221). -/
theorem length_filter_range_eq_gridPoints (hstride : 0 < stride) :
    ((List.range size).filter fun x => start ≤ x ∧ (x - start) % stride = 0).length = gridPoints size start stride := by
  induction size with
  | zero => simp [gridPoints]
  | succ n ih =>
    rw [List.range_succ, List.filter_append, List.length_append, ih, gridPoints_succ hstride]
    split_ifs with hpoint <;> simp [hpoint]

/-- A grid that starts within its first stride is a residue class. -/
theorem gridPoint_iff_mod_eq (hstart : start < stride) : start ≤ x ∧ (x - start) % stride = 0 ↔ x % stride = start := by
  constructor
  · rintro ⟨hle, hmod⟩
    have hsame : start ≡ x [MOD stride] := (Nat.modEq_iff_dvd' hle).mpr (Nat.dvd_of_mod_eq_zero hmod)
    rw [← hsame, Nat.mod_eq_of_lt hstart]
  · rintro rfl
    exact ⟨Nat.mod_le .., Nat.mod_eq_zero_of_dvd (Nat.dvd_sub_mod x)⟩

end axis

/-! ### The pass table -/

section passes
variable {p x y px py w h : Nat}

/-- Every grid starts within its first stride (R220). -/
theorem passGrid_start_lt_stride (p : Nat) : (passGrid p).xs < (passGrid p).xd ∧ (passGrid p).ys < (passGrid p).yd := by
  unfold passGrid
  split <;> decide

/-- Every stride divides the 8 × 8 pattern (R220). -/
theorem passGrid_stride_dvd_eight (p : Nat) : (passGrid p).xd ∣ 8 ∧ (passGrid p).yd ∣ 8 := by
  unfold passGrid
  split <;> decide

theorem passGrid_xd_pos : 0 < (passGrid p).xd := (passGrid_start_lt_stride p).1.pos

theorem passGrid_yd_pos : 0 < (passGrid p).yd := (passGrid_start_lt_stride p).2.pos

/-- A column of a pass is one whose image column lies in the image (R221). -/
theorem lt_passDims_width_iff : px < (passDims p w h).1 ↔ imageX p px < w := lt_gridPoints_iff passGrid_xd_pos

/-- A row of a pass is one whose image row lies in the image (R221). -/
theorem lt_passDims_height_iff : py < (passDims p w h).2 ↔ imageY p py < h := lt_gridPoints_iff passGrid_yd_pos

/-- The dimensions of a pass are the numbers of its grid points on either axis (R221). -/
theorem passDims_eq_lengths : passDims p w h =
    (((List.range w).filter fun x => (passGrid p).xs ≤ x ∧ (x - (passGrid p).xs) % (passGrid p).xd = 0).length,
      ((List.range h).filter fun y => (passGrid p).ys ≤ y ∧ (y - (passGrid p).ys) % (passGrid p).yd = 0).length) :=
  Prod.ext (length_filter_range_eq_gridPoints passGrid_xd_pos).symm
    (length_filter_range_eq_gridPoints passGrid_yd_pos).symm

/-- A pass holds the pixels of one residue on each axis. -/
theorem inPass_iff : inPass p x y = true ↔ x % (passGrid p).xd = (passGrid p).xs ∧ y % (passGrid p).yd = (passGrid p).ys := by
  obtain ⟨hx, hy⟩ := passGrid_start_lt_stride p
  rw [← gridPoint_iff_mod_eq hx, ← gridPoint_iff_mod_eq hy]
  simp only [inPass, Bool.and_eq_true, decide_eq_true_eq, beq_iff_eq]
  tauto

/-- The pixel of the image that a pixel of a pass is, is in that pass. -/
theorem inPass_imageX_imageY : inPass p (imageX p px) (imageY p py) = true := by
  simp [inPass, imageX, imageY]

/-- The coordinates A7_INV reports map back to the pixel (R224). -/
theorem imageX_imageY_of_inPass (hin : inPass p x y = true) :
    imageX p ((x - (passGrid p).xs) / (passGrid p).xd) = x ∧ imageY p ((y - (passGrid p).ys) / (passGrid p).yd) = y := by
  simp only [inPass, Bool.and_eq_true, decide_eq_true_eq, beq_iff_eq] at hin
  obtain ⟨⟨⟨hxs, hys⟩, hxd⟩, hyd⟩ := hin
  simp only [imageX, imageY, Nat.div_mul_cancel (Nat.dvd_of_mod_eq_zero hxd),
    Nat.div_mul_cancel (Nat.dvd_of_mod_eq_zero hyd)]
  omega

theorem imageX_injective : Function.Injective (imageX p) :=
  fun _ _ heq => Nat.eq_of_mul_eq_mul_right passGrid_xd_pos (Nat.add_left_cancel heq)

theorem imageY_injective : Function.Injective (imageY p) :=
  fun _ _ heq => Nat.eq_of_mul_eq_mul_right passGrid_yd_pos (Nat.add_left_cancel heq)

/-! ### The pass of a pixel -/

/-- Whether a pass holds a pixel is decided in the 8 × 8 pattern (R229). -/
theorem inPass_mod_eight : inPass p x y = inPass p (x % 8) (y % 8) := by
  obtain ⟨hx, hy⟩ := passGrid_stride_dvd_eight p
  rw [Bool.eq_iff_iff, inPass_iff, inPass_iff, Nat.mod_mod_of_dvd x hx, Nat.mod_mod_of_dvd y hy]

/-- So is the pass that holds it (R229). -/
theorem passOf_mod_eight : passOf x y = passOf (x % 8) (y % 8) := by
  have hpattern : (inPass · x y) = (inPass · (x % 8) (y % 8)) := funext fun _ => inPass_mod_eight
  simp only [passOf]
  rw [hpattern]

/-- In the 8 × 8 pattern each place has a pass, which alone holds it (R229). -/
theorem passOf_pattern : ∀ a < 8, ∀ b < 8,
    passOf a b ∈ passList 1 ∧ ∀ p ∈ passList 1, inPass p a b = true ↔ passOf a b = p := by
  decide

theorem mem_passList_one : p ∈ passList 1 ↔ 1 ≤ p ∧ p ≤ 7 := by
  simp only [passList, Nat.one_ne_zero, if_false, List.mem_cons, List.not_mem_nil, or_false]
  omega

/-- The pass of a pixel is one of the seven (R224). -/
theorem passOf_bounds (x y : Nat) : 1 ≤ passOf x y ∧ passOf x y ≤ 7 := by
  obtain ⟨hmem, -⟩ := passOf_pattern (x % 8) (Nat.mod_lt x (by decide)) (y % 8) (Nat.mod_lt y (by decide))
  rwa [← passOf_mod_eight, mem_passList_one] at hmem

/-- Of the seven passes, that of the pixel alone holds it (R224). -/
theorem inPass_iff_passOf_eq (hone : 1 ≤ p) (hseven : p ≤ 7) : inPass p x y = true ↔ passOf x y = p := by
  obtain ⟨-, honly⟩ := passOf_pattern (x % 8) (Nat.mod_lt x (by decide)) (y % 8) (Nat.mod_lt y (by decide))
  rw [inPass_mod_eight, passOf_mod_eight]
  exact honly p (mem_passList_one.mpr ⟨hone, hseven⟩)

theorem inPass_passOf (x y : Nat) : inPass (passOf x y) x y = true := by
  obtain ⟨hone, hseven⟩ := passOf_bounds x y
  exact (inPass_iff_passOf_eq hone hseven).mpr rfl

end passes

/-- Settles O58: a pixel of a pass is in that pass, and only `passOf` holds it. -/
theorem adam7Partition : Obligations.Adam7Partition := by
  intro w h inside
  refine ⟨?_, fun x y hx hy => ?_, ?_⟩
  · rintro p px py ⟨-, -, hpx, hpy⟩
    exact ⟨lt_passDims_width_iff.mp hpx, lt_passDims_height_iff.mp hpy⟩
  · obtain ⟨hone, hseven⟩ := passOf_bounds x y
    obtain ⟨hmapX, hmapY⟩ := imageX_imageY_of_inPass (inPass_passOf x y)
    exact ⟨passOf x y, _, _, ⟨hone, hseven, lt_passDims_width_iff.mpr (hmapX.trans_lt hx),
      lt_passDims_height_iff.mpr (hmapY.trans_lt hy)⟩, hmapX, hmapY⟩
  · rintro p px py p' px' py' ⟨hone, hseven, -, -⟩ ⟨hone', hseven', -, -⟩ hx hy
    have hpass : passOf (imageX p px) (imageY p py) = p := (inPass_iff_passOf_eq hone hseven).mp inPass_imageX_imageY
    have hpass' : passOf (imageX p' px') (imageY p' py') = p' :=
      (inPass_iff_passOf_eq hone' hseven').mp inPass_imageX_imageY
    obtain rfl : p = p' := by rw [← hpass, hx, hy, hpass']
    exact ⟨rfl, imageX_injective hx, imageY_injective hy⟩

/-! ### The mapper commands -/

section commands
variable {s : State} {l : Latched}

/-- The table as the lists of its columns (R220). -/
theorem passGrid_eq_getD {p : Nat} (hp : p ≤ 7) : passGrid p = ⟨[0, 0, 4, 0, 2, 0, 1, 0].getD p 0,
    [0, 0, 0, 4, 0, 2, 0, 1].getD p 0, [1, 8, 8, 4, 4, 2, 2, 1].getD p 1, [1, 8, 8, 8, 4, 4, 2, 2].getD p 1⟩ := by
  interval_cases p <;> rfl

theorem exec_a7Dims_of_pass (hbusy : s.phase = .busy l) (hpass : l.regs.arg0.toNat ≤ 7) :
    let dims := l.regs.hdr.passDims l.regs.arg0.toNat
    exec .a7Dims s
      = .next (s.completed s.mem s.regs (u32 dims.1) (u32 dims.2) (if dims.1 = 0 ∨ dims.2 = 0 then 1 else 0) 0) := by
  simp only [exec, execA7Dims, State.operands_busy hbusy]
  exact conclude_cons_holds (decide_eq_true hpass)

theorem exec_a7Map_of_inside (hbusy : s.phase = .busy l) (hpass : l.regs.arg0.toNat ≤ 7)
    (hpx : l.regs.arg1.toNat < (l.regs.hdr.passDims l.regs.arg0.toNat).1)
    (hpy : l.regs.arg2.toNat < (l.regs.hdr.passDims l.regs.arg0.toNat).2) :
    exec .a7Map s = .next (s.completed s.mem s.regs (u32 (imageX l.regs.arg0.toNat l.regs.arg1.toNat))
      (u32 (imageY l.regs.arg0.toNat l.regs.arg2.toNat)) 0 0) := by
  simp only [exec, execA7Map, State.operands_busy hbusy]
  exact conclude_cons_holds (by simp [hpass, hpx, hpy])

theorem exec_a7Inv_of_inside (hbusy : s.phase = .busy l) (hx : l.regs.arg0.toNat < l.regs.hdr.width.toNat)
    (hy : l.regs.arg1.toNat < l.regs.hdr.height.toNat) :
    let p := passOf l.regs.arg0.toNat l.regs.arg1.toNat
    exec .a7Inv s = .next (s.completed s.mem s.regs (u32 p)
      (u32 ((l.regs.arg0.toNat - (passGrid p).xs) / (passGrid p).xd))
      (u32 ((l.regs.arg1.toNat - (passGrid p).ys) / (passGrid p).yd)) 0) := by
  simp only [exec, execA7Inv, State.operands_busy hbusy]
  exact conclude_cons_holds (by simp [hx, hy])

end commands

/-- Settles O22: PassDims is the number of grid points on each axis. -/
theorem passDimensions : Obligations.PassDimensions := by
  intro s l hbusy hpass p count pw ph
  have hdims : l.regs.hdr.passDims p = (pw, ph) := by
    simp only [Header.passDims, passDims_eq_lengths, passGrid_eq_getD hpass, p, pw, ph, count]
  rw [exec_a7Dims_of_pass hbusy hpass, hdims]

/-- Settles O23: the coordinates of either side lie in range when those of the other do. -/
theorem coordinatesAreMapped : Obligations.CoordinatesAreMapped := by
  intro s l hbusy o wide high
  refine ⟨fun hpass hpx hpy => ?_, fun hx hy => ?_⟩
  · exact ⟨exec_a7Map_of_inside hbusy hpass hpx hpy, lt_passDims_width_iff.mp hpx, lt_passDims_height_iff.mp hpy⟩
  · obtain ⟨hone, hseven⟩ := passOf_bounds o.arg0.toNat o.arg1.toNat
    obtain ⟨hmapX, hmapY⟩ := imageX_imageY_of_inPass (inPass_passOf o.arg0.toNat o.arg1.toNat)
    exact ⟨_, _, _, exec_a7Inv_of_inside hbusy hx hy, hone, hseven, hmapX.symm, hmapY.symm,
      lt_passDims_width_iff.mpr (hmapX.trans_lt hx), lt_passDims_height_iff.mpr (hmapY.trans_lt hy)⟩

end Sys2Proof.Machine
end

section
/-!
PROOFS. E_OVERFLOW (60_exceptions.md R241): when each checked size does not fit 32 bits, and that its check is then the
first of its command's to fail.
-/

namespace Sys2Proof.Machine

/-! ### The sizes that do not fit (R177, R178, R206, R207) -/

section sizes
variable {h : Header} {w : Nat}

/-- A row does not fit when its filtered or its unpacked form is too long (R177). -/
theorem Header.rowFits_eq_false :
    h.rowFits w = false ↔ u32Max < 1 + h.rowBytes w ∨ u32Max < h.samples w * h.sampleWidth := by
  simp only [Header.rowFits, Bool.and_eq_false_iff, decide_eq_false_iff_not, Nat.not_le]

theorem Header.filteredRowFits_eq_false : h.filteredRowFits w = false ↔ u32Max < 1 + h.rowBytes w := by
  simp only [Header.filteredRowFits, decide_eq_false_iff_not, Nat.not_le]

/-- An image does not fit when its filtered stream or one of its rows is too long (R178). -/
theorem Header.imageFits_eq_false :
    h.imageFits = false ↔ u32Max < filteredBytes h.passRows ∨ ∃ p ∈ h.passRows, u32Max < 1 + p.1 := by
  simp only [Header.imageFits, Bool.and_eq_false_iff, List.all_eq_false, decide_eq_true_eq, decide_eq_false_iff_not,
    Nat.not_le]

end sizes

/-! ### The size check is the first to fail (40_command_issue.md R112) -/

section raises
variable {h : Header} {w : Nat} {cs : List Check} {f : Raise → State} {u : Host.Outcome State Fault Refusal}

/-- GEOM, UNPACK_ROW and PACK_ROW: after the format comes the size of the row (R177). -/
theorem conclude_rowFits_fails (hfmt : h.fmtValid = true)
    (hsize : u32Max < 1 + h.rowBytes w ∨ u32Max < h.samples w * h.sampleWidth) :
    conclude (fmtCheck h :: rowFitsCheck h w :: cs) f u = .next (f (raise .overflow)) :=
  (conclude_cons_holds hfmt).trans (conclude_cons_fails (Header.rowFits_eq_false.mpr hsize))

/-- UNFILTER_ROW and FILTER_ROW: after the format comes the size of the filtered row (R206, R207). -/
theorem conclude_filteredRowFits_fails (hfmt : h.fmtValid = true) (hsize : u32Max < 1 + h.rowBytes w) :
    conclude (fmtCheck h :: filteredRowFitsCheck h w :: cs) f u = .next (f (raise .overflow)) :=
  (conclude_cons_holds hfmt).trans (conclude_cons_fails (Header.filteredRowFits_eq_false.mpr hsize))

/-- IMGLEN and the image commands: after the header comes the size of the image (R178, R208, R209). -/
theorem conclude_imageFits_fails (himage : h.imageValid = true)
    (hsize : u32Max < filteredBytes h.passRows ∨ ∃ p ∈ h.passRows, u32Max < 1 + p.1) :
    conclude (imageCheck h :: imageFitsCheck h :: cs) f u = .next (f (raise .overflow)) :=
  (conclude_cons_holds himage).trans (conclude_cons_fails (Header.imageFits_eq_false.mpr hsize))

/-- FR_START, EM_START and the emit commands: a size `n` that does not fit fails its check. -/
theorem conclude_size_fails {n : Nat} {r : Raise} (hsize : u32Max < n) :
    conclude (⟨decide (n ≤ u32Max), r⟩ :: cs) f u = .next (f r) :=
  conclude_cons_fails (decide_eq_false (Nat.not_le.mpr hsize))

end raises

/-- Settles O40: in each command the checks before the size's hold. -/
theorem overflowErrors : Obligations.OverflowErrors := by
  intro s l zp ft hbusy hft
  rw [← State.operands_busy hbusy]
  intro o h tooWide tooMany chunks overflows
  have hstream (hstarted : o.em.started = true) : (emSequence o).holds = true := hstarted
  refine ⟨conclude_rowFits_fails, fun hfmt hsize => ?rows, fun hfmt hsize => ?filterRows, fun himage hsize => ?images,
    fun hsize => ?starts, fun hstarted hsize => ?emChunk, fun hstarted hmost hsize => ?emIdat⟩
  case rows => exact ⟨conclude_rowFits_fails hfmt hsize, conclude_rowFits_fails hfmt hsize⟩
  case filterRows =>
    exact ⟨conclude_filteredRowFits_fails hfmt hsize,
      (conclude_ftCheck hft).trans (conclude_filteredRowFits_fails hfmt hsize)⟩
  case images =>
    exact ⟨conclude_imageFits_fails himage hsize, conclude_imageFits_fails himage hsize,
      (conclude_ftCheck hft).trans (conclude_imageFits_fails himage hsize)⟩
  case starts => exact ⟨conclude_size_fails hsize, conclude_size_fails hsize⟩
  case emChunk => exact (conclude_cons_holds (hstream hstarted)).trans (conclude_size_fails hsize)
  case emIdat =>
    exact (conclude_cons_holds (hstream hstarted)).trans
      ((conclude_cons_holds (bne_iff_ne.mpr hmost)).trans (conclude_size_fails hsize))

end Sys2Proof.Machine
end

section
/-!
PROOFS. Reset (70_reset_and_hazards.md R270, R271): what each register and each buffer byte holds after power-on and
after a soft reset, and that the machine's invariants hold at its first state.
-/

namespace Sys2Proof.Machine

/-! ### The registers after a reset (10_state.md R20, R50) -/

section registers
variable {s : State}

theorem State.statusWord_resetRegisters (s : State) : s.resetRegisters.statusWord = 0 := by
  simp [State.statusWord, State.busy, Status.reset, bitAt, u32]

/-- The reset values: ID, CRC and IDAT_MAX have their own, every other register 0. -/
theorem State.readReg_resetRegisters (s : State) (r : Reg) :
    s.resetRegisters.readReg r =
      if r = .id then 0x504E4701#32 else if r = .crc then 0xFFFFFFFF#32
      else if r = .idatMax then 0x00002000#32 else 0#32 := by
  cases r with
  | status => exact s.statusWord_resetRegisters
  | _ => rfl

theorem Reg.address_eq_iff {r r' : Reg} {a : Nat} (h : r'.address = a) : r.address = a ↔ r = r' :=
  ⟨fun hr => Reg.address_injective (hr.trans h.symm), fun hr => hr ▸ h⟩

/-- The reset value at each offset; a reserved one reads 0. -/
theorem State.registerAt_resetRegisters (s : State) (a : Nat) :
    s.resetRegisters.registerAt a =
      if a = 0x00 then 0x504E4701#32 else if a = 0x38 then 0xFFFFFFFF#32
      else if a = 0x3C then 0x00002000#32 else 0#32 := by
  by_cases hr : ∃ r : Reg, r.address = a
  · obtain ⟨r, rfl⟩ := hr
    simp only [State.registerAt_address, State.readReg_resetRegisters, Reg.address_eq_iff (r' := .id) (a := 0x00) rfl,
      Reg.address_eq_iff (r' := .crc) (a := 0x38) rfl, Reg.address_eq_iff (r' := .idatMax) (a := 0x3C) rfl]
  · have hr (r : Reg) : a ≠ r.address := fun h => hr ⟨r, h.symm⟩
    have hid : a ≠ 0x00 := hr .id
    have hcrc : a ≠ 0x38 := hr .crc
    have hmax : a ≠ 0x3C := hr .idatMax
    rw [State.registerAt_of_no_reg _ fun r => (hr r).symm, if_neg hid, if_neg hcrc, if_neg hmax]
    rfl

/-- The machine's first state is a reset state. -/
theorem State.reset_eq_resetRegisters : State.reset = State.reset.resetRegisters := rfl

/-- A byte that nothing has written since power-on (R270, log 2). -/
theorem State.readByte_unwritten (h : s.mem = []) (a : Nat) : s.readByte a = Config.powerOnByte s.epoch a := by
  rw [State.readByte, h, Memory.lookup]

end registers

/-- Settles O14: power-on empties the memory and resets the registers, and the first state is such a state. -/
theorem powerOnReset : Obligations.PowerOnReset := by
  unfold Obligations.PowerOnReset
  intro isReset
  have hreset (u : State) (h : u.mem = []) : isReset u.resetRegisters :=
    ⟨u.registerAt_resetRegisters, rfl, rfl, rfl, State.readByte_unwritten h⟩
  refine ⟨hreset .reset rfl, fun s rest hagenda => ⟨_, step_host hagenda, ?_, rfl, rfl, rfl⟩⟩
  exact hreset { s with agenda := rest, mem := [], epoch := s.epoch + 1 } rfl

/-! ### The invariants at the first state -/

/-- The memory of the first state is empty, and its MEM_SIZE is in range (00_scope.md R8). -/
theorem State.memInv_reset : State.reset.MemInv :=
  ⟨.nil, nofun, Nat.le_add_left 1 _, Config.memSizeLessOne.isLt⟩

/-- Settles O54: a reset of the registers gives both invariants, and the first state is a reset state. -/
theorem invariantsAtReset : Obligations.InvariantsAtReset := by
  rw [Obligations.InvariantsAtReset, State.reset_eq_resetRegisters]
  exact ⟨State.memInv_reset.resetRegisters_inv, State.streamInv_resetRegisters .reset⟩

/-! ### The bytes of an abandoned write set (R271) -/

section scrambled
variable {s : State} {rs : List Range} {a : Nat}

/-- Scrambling a range frees every byte of it that exists. -/
theorem State.readByte_scramble_inside {r : Range} (h : r.contains a = true) (ha : a < s.memSize) :
    ∃ k, (s.scramble r).readByte a = Config.freeByte k := by
  obtain ⟨hlo, hhi⟩ : r.start ≤ a ∧ a < r.start + r.len := by simpa [Range.contains] using h
  obtain ⟨i, rfl⟩ := Nat.exists_eq_add_of_le hlo
  have hi : i < (r.clip s.memSize).len := by
    simp only [Range.clip]
    omega
  refine ⟨s.free + i, (State.readByte_memWrite_inside (by simpa using hi)).trans ?_⟩
  simp [freeBytes, List.getD_eq_getElem?_getD, hi]

/-- Scrambling ranges frees every byte of them that exists: the last range to hold the byte decides it. -/
theorem State.readByte_scrambleAll_inside (h : inRanges rs a = true) (ha : a < s.memSize) :
    ∃ k, (s.scrambleAll rs).readByte a = Config.freeByte k := by
  induction rs generalizing s with
  | nil => cases h
  | cons r rs ih =>
    cases hrs : inRanges rs a with
    | true => exact ih (s := s.scramble r) hrs ha
    | false =>
      have hr : r.contains a = true := (Bool.or_eq_true_iff.mp h).resolve_right (ne_true_of_eq_false hrs)
      obtain ⟨k, hk⟩ := State.readByte_scramble_inside hr ha
      exact ⟨k, (State.readByte_scrambleAll_outside (s := s.scramble r) hrs).trans hk⟩

theorem State.runningWrites_idle (h : s.phase = .idle) : s.runningWrites = [] :=
  (List.append_eq_nil_iff.mp (State.noRanges_idle h)).2

end scrambled

/-! ### The soft reset -/

/-- A write to CTRL with SRST = 1 resets, whatever the phase and the other bits (R24, R271). -/
theorem hostRegWrite_softReset {s : State} {v : Word} (h : v.getLsbD 2 = true) :
    s.hostRegWrite 0x0C .word v = .next s.softReset := by
  rw [hostRegWrite_reg (r := .ctrl) rfl rfl, Reg.lockedWhileBusy, Bool.and_false, if_neg Bool.false_ne_true,
    State.writeReg, State.writeCtrl, if_pos h]

/-- A soft reset gives the first state again, but for the memory, MEM_SIZE and fields that are the model's own. -/
theorem State.softReset_eq (s : State) :
    s.softReset = { State.reset with
      mem := s.softReset.mem, free := s.softReset.free, memSize := s.memSize, epoch := s.epoch, agenda := s.agenda,
      hostData := s.hostData } :=
  congrArg State.resetRegisters (s.scrambleAll_frame s.runningWrites)

theorem State.softReset_mem_idle {s : State} (h : s.phase = .idle) : s.softReset.mem = s.mem := by
  rw [State.softReset, State.runningWrites_idle h]
  rfl

/-- Settles O12: SRST scrambles the abandoned write set and resets the registers. -/
theorem softReset : Obligations.SoftReset := by
  intro s v rest hagenda hsrst
  exact ⟨_, (step_host hagenda).trans (hostRegWrite_softReset hsrst), State.softReset_eq _,
    fun _ houtside => State.readByte_scrambleAll_outside houtside,
    fun _ hinside hexists => State.readByte_scrambleAll_inside hinside hexists,
    fun hidle => State.softReset_mem_idle hidle⟩

end Sys2Proof.Machine
end
